-- ==== Sys2Proof/Word.lean ====
section
/-!
DEFINITION. The words of the machine: bytes, register words, cache slot numbers, and the pixel.
Rules R8 (numbers) and R9 (pixels) of spec/00_scope.md.
-/

namespace Sys2Proof

/-- A byte, bit 7 the most significant (R8). -/
abbrev Byte := BitVec 8

/-- A `u32`: width, height, the control and status registers. -/
abbrev Word32 := BitVec 32

/-- A `u64`: pixel counters, positions, lengths and the cursor (10_state.md R27). -/
abbrev Word64 := BitVec 64

/-- A slot number of the colour cache, 0 to 63 (10_state.md R22). -/
abbrev Slot := BitVec 6

/-- A pixel is four unsigned 8-bit channels and is a value: assigning it copies it (R9, R234). -/
structure Pixel where
  r : Byte
  g : Byte
  b : Byte
  a : Byte
  deriving DecidableEq, Repr, Inhabited

end Sys2Proof
end

