-- ==== Sys2Proof/Syntax.lean ====
section
/-!
DEFINITION. The six opcodes of the stream, one constructor per row of spec/opcode_table.json. Operands are those of
the assembler syntax of rule R87 of spec/30_encoding.md: deltas and run lengths as numbers, with the bias removed.
-/

namespace Sys2Proof

/-- An opcode with its operands (30_encoding.md R75 to R80, R87). -/
inductive Instr
  /-- `RGBA r, g, b, a`: a full literal (R80). -/
  | rgba (r g b a : Byte)
  /-- `RGB r, g, b`: a literal that keeps alpha (R79). -/
  | rgb (r g b : Byte)
  /-- `INDEX k`: the pixel in cache slot `k` (R75). -/
  | index (k : Slot)
  /-- `DIFF dr, dg, db`: small deltas, each in -2..1 (R76). -/
  | diff (dr dg db : Int)
  /-- `LUMA dg, dr_dg, db_dg`: the green delta in -32..31, the other deltas relative to it in -8..7 (R77). -/
  | luma (dg drDg dbDg : Int)
  /-- `RUN n`: the previous pixel `n` times, `n` in 1..62, the run length and not the payload (R78). -/
  | run (n : Nat)
  deriving DecidableEq, Repr

end Sys2Proof
end

