-- ==== Sys2Proof/WellFormed.lean ====
section
/-!
DEFINITION. The operand ranges of rule R87 of spec/30_encoding.md.
-/

namespace Sys2Proof

/-- `lo <= z <= hi`. -/
def inRange (lo hi z : Int) : Bool := decide (lo ≤ z) && decide (z ≤ hi)

/-- The operands lie in the ranges their fields can hold (R81, R87). Byte operands and slot numbers always do. -/
def Instr.wf : Instr → Bool
  | .rgba _ _ _ _ => true
  | .rgb _ _ _ => true
  | .index _ => true
  | .diff dr dg db => inRange (-2) 1 dr && inRange (-2) 1 dg && inRange (-2) 1 db
  | .luma dg drDg dbDg => inRange (-32) 31 dg && inRange (-8) 7 drDg && inRange (-8) 7 dbDg
  | .run n => decide (1 ≤ n) && decide (n ≤ 62)

end Sys2Proof
end

