-- ==== Sys2Proof/Decode.lean ====
section
/-!
DEFINITION. Reading an opcode from bytes and writing one to bytes: rules R74 to R84 and R87 of spec/30_encoding.md.
-/

namespace Sys2Proof

/-- Why no opcode can be read. Every first byte is an opcode (R83), so the bytes can only run out. -/
inductive DecodeError
  /-- There is no first byte. -/
  | noFirstByte
  /-- The opcode of this mnemonic needs more operand bytes than there are. -/
  | truncated (mnemonic : String)
  deriving DecidableEq, Repr

/-- The 2-bit tag, bits [7:6] of the first byte. -/
def tagOf (b : Byte) : BitVec 2 := b.extractLsb' 6 2

/-- The 6-bit payload, bits [5:0] of the first byte. -/
def payloadOf (b : Byte) : BitVec 6 := b.extractLsb' 0 6

/-- The field of `w` bits of `b` whose lowest bit is `lo`, zero-extended, with `bias` removed (R81). -/
def unbias (b : Byte) (lo w : Nat) (bias : Int) : Int := ((b.extractLsb' lo w).toNat : Int) - bias

/-- The length in bytes of the opcode that begins with `b` (R82). -/
def opcodeLength (b : Byte) : Nat :=
  if b = 0xFF then 5 else if b = 0xFE then 4 else if tagOf b = 0b10 then 2 else 1

/-- The length in bytes of an opcode (R82). -/
def instrLength : Instr → Nat
  | .rgba _ _ _ _ => 5
  | .rgb _ _ _ => 4
  | .index _ => 1
  | .diff _ _ _ => 1
  | .luma _ _ _ => 2
  | .run _ => 1

/-- The operands of RGBA: the four bytes after the tag (R80). -/
def decodeRgba : List Byte → Except DecodeError (Instr × List Byte)
  | r :: g :: b :: a :: rest => .ok (.rgba r g b a, rest)
  | _ => .error (.truncated "RGBA")

/-- The operands of RGB: the three bytes after the tag (R79). -/
def decodeRgb : List Byte → Except DecodeError (Instr × List Byte)
  | r :: g :: b :: rest => .ok (.rgb r g b, rest)
  | _ => .error (.truncated "RGB")

/-- The operands of DIFF: three 2-bit fields of the first byte, biased by 2 (R76, R81). -/
def decodeDiff (b : Byte) : Instr := .diff (unbias b 4 2 2) (unbias b 2 2 2) (unbias b 0 2 2)

/-- The operands of LUMA: the payload, biased by 32, and the two nibbles of the second byte, biased by 8
(R77, R81). -/
def decodeLuma (b : Byte) : List Byte → Except DecodeError (Instr × List Byte)
  | b2 :: rest => .ok (.luma (unbias b 0 6 32) (unbias b2 4 4 8) (unbias b2 0 4 8), rest)
  | [] => .error (.truncated "LUMA")

/-- The operand of RUN: the payload plus one (R78, R81). -/
def decodeRun (b : Byte) : Instr := .run ((payloadOf b).toNat + 1)

/-- Reads one opcode and answers the bytes after it. The two full-byte opcodes are tested first, then the 2-bit tag
(R74, R236). -/
def decode : List Byte → Except DecodeError (Instr × List Byte)
  | [] => .error .noFirstByte
  | b :: rest =>
    if b = 0xFF then decodeRgba rest
    else if b = 0xFE then decodeRgb rest
    else if tagOf b = 0b00 then .ok (.index (payloadOf b), rest)
    else if tagOf b = 0b01 then .ok (decodeDiff b, rest)
    else if tagOf b = 0b10 then decodeLuma b rest
    else .ok (decodeRun b, rest)

/-- The byte that holds an integer, modulo 256. -/
def byteOfInt (z : Int) : Byte := BitVec.ofInt 8 z

/-- The bytes of an opcode, by the formulas of R87. -/
def encode : Instr → List Byte
  | .rgba r g b a => [0xFF, r, g, b, a]
  | .rgb r g b => [0xFE, r, g, b]
  | .index k => [byteOfInt (0x00 + k.toNat)]
  | .diff dr dg db => [byteOfInt (0x40 + (dr + 2) * 16 + (dg + 2) * 4 + (db + 2))]
  | .luma dg drDg dbDg => [byteOfInt (0x80 + (dg + 32)), byteOfInt ((drDg + 8) * 16 + (dbDg + 8))]
  | .run n => [byteOfInt (0xC0 + ((n : Int) - 1))]

/-- Byte `i` of an instruction whose bits are `w` and whose bits at and above `nbits` are 0. -/
def tableByte (nbits w i : Nat) : Byte := BitVec.ofNat 8 ((w % 2 ^ nbits) / 2 ^ (8 * i))

/-- An instruction given as a number, laid out in stream order (20_memory.md R55) in the five bytes of the longest
opcode. -/
def tableBytes (nbits w : Nat) : List Byte :=
  [tableByte nbits w 0, tableByte nbits w 1, tableByte nbits w 2, tableByte nbits w 3, tableByte nbits w 4]

/-- The instruction the decoder reads from a word numbered as spec/opcode_table.json numbers it. -/
def decodeTableWord (nbits w : Nat) : Option Instr :=
  match decode (tableBytes nbits w) with
  | .ok (i, _) => some i
  | .error _ => none

end Sys2Proof
end

