-- ==== Sys2Proof/Config.lean ====
section
/-!
DEFINITION. What the spec leaves to the platform or the implementation: the parameters of rule R7 of
spec/00_scope.md as plain data (State holds one such record, which no step writes), and the free values, which have no
body, so that no proof can see what they are.
-/

namespace Sys2Proof

/-- `DEC_DELTA_OVERFLOW`: what a DIFF or LUMA sum outside [0, 255] does (42_decoder.md R170). -/
inductive DeltaOverflow
  | wrap
  | error
  deriving DecidableEq, Repr

/-- `DEC_RUN_OVERSHOOT`: what a RUN longer than the missing pixels does (42_decoder.md R171). -/
inductive RunOvershoot
  | clamp
  | error
  deriving DecidableEq, Repr

/-- The host-visible registers with a numeric value, by name (10_state.md R34 to R40). The four buffer handles are
not among them: they hold a handle, not a number (`BufName`). -/
inductive Reg
  | encWidth
  | encHeight
  | encChannels
  | encColorspace
  | encCtrl
  | encStatus
  | encOutLen
  | decInLen
  | decCtrl
  | decStatus
  | decErrOffset
  | decWidth
  | decHeight
  | decChannels
  | decColorspace
  | decPixels
  deriving DecidableEq, Repr

/-- The four host buffers (20_memory.md R50), and the four handle registers that name them (10_state.md R34, R37). -/
inductive BufName
  | encIn
  | encOut
  | decIn
  | decOut
  deriving DecidableEq, Repr

/-- A buffer: a byte array addressed from offset 0, `size` bytes long, that lies in the host's memory at `base`
(R50, R58). -/
structure Buffer where
  base : Nat
  size : Nat
  deriving DecidableEq, Repr, Inhabited

/-- A register that REG_MAP can give a bus address: any register of 10_state.md R34 to R40, a handle among them. -/
inductive HostReg
  | num (r : Reg)
  | handle (b : BufName)
  deriving DecidableEq, Repr

/-- The parameters of R7. -/
structure Config where
  /-- `CACHE_INIT_PIXEL`: every cache slot at job start (40_shared.md R106). -/
  cacheInitPixel : Pixel
  /-- `PREV_INIT_PIXEL`: PREV at job start (10_state.md R23). -/
  prevInitPixel : Pixel
  /-- `MAX_PIXELS`: the largest `width * height` a job may have (41_encoder.md R120, 42_decoder.md R160). -/
  maxPixels : Nat
  /-- `ALLOW_TRAILING_BYTES` (42_decoder.md R172). -/
  allowTrailingBytes : Bool
  /-- `DEC_DELTA_OVERFLOW`. -/
  deltaOverflow : DeltaOverflow
  /-- `DEC_RUN_OVERSHOOT`. -/
  runOvershoot : RunOvershoot
  /-- `REG_MAP`: the bus address of each mapped register (20_memory.md R58). That it can place a handle, which the spec gives
  no bus form, is log entry 6. -/
  regMap : List (HostReg × Nat)
  /-- Counter width: the bits of the pixel counters, positions and cursors (10_state.md R27, log entry 5). -/
  counterWidth : Nat
  deriving DecidableEq, Repr

/-- The defaults of R7. `MAX_PIXELS` and `REG_MAP` are OPEN there: DESIGN CHOICE, log entries 5 and 6. -/
def Config.default : Config where
  cacheInitPixel := ⟨0, 0, 0, 255⟩
  prevInitPixel := ⟨0, 0, 0, 255⟩
  maxPixels := 2 ^ 61
  allowTrailingBytes := false
  deltaOverflow := .wrap
  runOvershoot := .clamp
  regMap := []
  counterWidth := 64

/-- FREE VALUE: what a byte of host memory that nothing has written reads as, by address (log entry 4). -/
opaque Config.unwrittenByte : Nat → Byte

/-- FREE VALUE: byte `i` of DEC_OUT after the decoder error numbered `epoch` (60_exceptions.md R209, log entry 8). -/
opaque Config.spoiltByte (epoch i : Nat) : Byte

/-- FREE VALUE: a datapath register after the power-on reset numbered `epoch` (10_state.md R41, log entry 3). -/
opaque Config.powerOnWord (epoch reg : Nat) : Word64

/-- FREE VALUE: a pixel register or cache slot after the power-on reset numbered `epoch` (10_state.md R41). -/
opaque Config.powerOnPixel (epoch reg : Nat) : Pixel

/-- FREE VALUE: the buffer that a handle register holds after a bus write of this word. The spec gives a handle no bus
form (10_state.md R34, R37, log entry 6). -/
opaque Config.handleOfWord : Word64 → Buffer

/-- FREE VALUE: the word that a bus read of a handle register returns, by the handle it holds (log entry 6). -/
opaque Config.wordOfHandle : Option Buffer → Word64

/-- FREE VALUE: what the bus read numbered `epoch` returns at an address that REG_MAP does not map (log entry 6). -/
opaque Config.unmappedBusWord (epoch addr : Nat) : Word64

end Sys2Proof
end

