-- ==== Sys2Proof/Machine/State.lean ====
section
/-!
DEFINITION. The state of the machine, as spec/10_state.md and spec/20_memory.md give it, the reasons a step can stop,
and the state after power-on reset.
-/

namespace Sys2Proof.Machine

/-- The two engines (10_state.md R20). -/
inductive Engine
  | enc
  | dec
  deriving DecidableEq, Repr

/-- The three agents that take steps (R20). -/
inductive Agent
  | host
  | enc
  | dec
  deriving DecidableEq, Repr

/-- `ENC.PHASE` (R28). The encoder has no ERROR phase. -/
inductive EncPhase
  | idle
  | busy
  | done
  deriving DecidableEq, Repr

/-- `DEC.PHASE` (R28). -/
inductive DecPhase
  | idle
  | busy
  | done
  | error
  deriving DecidableEq, Repr

/-- The decoder's errors, one constructor per row of the table of 60_exceptions.md R201. -/
inductive DecErr
  | badMagic
  | badChannels
  | badEndMarker
  | deltaOverflow
  | runOvershoot
  | truncatedHeader
  | truncatedRgba
  | truncatedRgb
  | truncatedLuma
  | underfilled
  deriving DecidableEq, Repr

/-- The host's memory: bytes by address, addresses strictly rising; an address that is not listed has no byte written
yet. -/
abbrev Memory := List Host.Cell

/-- A colour cache: 64 pixel slots (10_state.md R22). -/
abbrev Cache := Vector Pixel 64

/-- The encoder engine: its datapath state (R22 to R28) and its registers (R34 to R36). -/
structure Enc where
  phase : EncPhase
  width : Word32
  height : Word32
  channels : Byte
  colorspace : Byte
  inBuf : Option Buffer
  outBuf : Option Buffer
  outLen : Word64
  cache : Cache
  prev : Pixel
  run : BitVec 6
  pos : Word64
  n : Word64
  deriving DecidableEq, Repr

/-- The decoder engine: its datapath state (R22, R23, R26, R28 to R31) and its registers (R37 to R40). `inBuf` is the
base of DEC_IN: that buffer's size is DEC_IN_LEN (20_memory.md R50). ERR_KIND and ERR_CAUSE are views of `err`. -/
structure Dec where
  phase : DecPhase
  inBuf : Option Nat
  inLen : Word64
  outBuf : Option Buffer
  err : Option DecErr
  errOffset : Word64
  width : Word32
  height : Word32
  channels : Byte
  colorspace : Byte
  pixels : Word64
  cache : Cache
  prev : Pixel
  cursor : Word64
  produced : Word64
  n : Word64
  l : Word64
  bodyEnd : Word64
  deriving DecidableEq, Repr

/-- What the host can do to the block (10_state.md section 3, 70_reset_and_hazards.md R230, R233). -/
inductive HostAction
  /-- Write a register by name; bits above the register's width do not exist. -/
  | writeReg (r : Reg) (v : Word64)
  /-- Read a register by name. -/
  | readReg (r : Reg)
  /-- Write the register, a handle among them, that REG_MAP places at a bus address. -/
  | busWrite (addr : Nat) (v : Word64)
  /-- Read the register, a handle among them, that REG_MAP places at a bus address. -/
  | busRead (addr : Nat)
  /-- Write a buffer handle register. Of the buffer given for DEC_IN only the base is kept. -/
  | setBuffer (b : BufName) (buf : Buffer)
  /-- Read a buffer handle register. -/
  | readBuffer (b : BufName)
  /-- Write one byte of the host's memory. -/
  | writeMem (addr : Nat) (v : Byte)
  /-- Read one byte of the host's memory. -/
  | readMem (addr : Nat)
  /-- Power-on reset (R230), at any turn of the host (log entry 3). -/
  | powerOn
  deriving DecidableEq, Repr

/-- Why the machine stops with a fault. -/
inductive Fault
  /-- An engine must access the bytes of a buffer whose handle register holds none (its power-on value, R34, R37): no
  memory stands behind the access. Raised by DecStart and, in states no run reaches, by the engines' other steps.
  Safe: the machine stops. -/
  | noBuffer (b : BufName)
  /-- The decoder reads no opcode from the five bytes before it. Never raised: every first byte is an opcode and five
  bytes hold any (30_encoding.md R83). Named by DecStep. Safe. -/
  | noOpcode
  deriving DecidableEq, Repr

/-- Why a step has no meaning: the host actions of 60_exceptions.md R211 and R216, exactly these. All are safe: the run
stops. -/
inductive Refusal
  /-- An opcode that the model gives no meaning yet. Raised by `exec` alone. -/
  | notModelled (mnemonic : String)
  /-- A register write or START while that engine is BUSY (R216, row 1). Raised by the host's register and handle
  writes. -/
  | writeWhileBusy (e : Engine)
  /-- EncStart: a channel count outside {3, 4} or a colorspace outside {0, 1} (R211). -/
  | illegalEncConfig
  /-- EncStart: ENC_IN is not `W*H*C` bytes long (R211). -/
  | encInputSize
  /-- EncStart: ENC_OUT holds fewer than `22 + 5*N` bytes; DecStart: DEC_OUT holds fewer than `N*C` (R216, row 3). -/
  | outputTooSmall (e : Engine)
  /-- EncStart, DecStart: `N > MAX_PIXELS` (R216, row 3). -/
  | tooManyPixels (e : Engine)
  /-- The host writes a BUSY engine's input buffer or touches its output buffer (R216, row 4). -/
  | bufferTouchedWhileBusy (e : Engine)
  /-- START while the other engine is BUSY and a buffer of one overlaps a buffer of the other (R216, row 4). -/
  | enginesOverlap
  deriving DecidableEq, Repr

/-- The whole state: the parameters, the two engines, the host's memory, and the model's own input and counters. -/
structure State where
  /-- The parameters of R7. No step writes them. -/
  cfg : Config
  enc : Enc
  dec : Dec
  mem : Memory
  /-- The host's actions still to come, oldest first. The model's own: the block's input. -/
  host : List HostAction
  /-- The agents that move next, first first. The model's own: the order the spec leaves free (R214). -/
  turns : List Agent
  /-- What the host's last read of a byte, of a numeric register or of a bus address returned. The model's own. -/
  hostData : Word64
  /-- The handle that the host's last handle read by name returned. The model's own. -/
  hostHandle : Option Buffer
  /-- How many times free values were drawn. The model's own. -/
  freeCount : Nat
  deriving DecidableEq, Repr

/-- Power-on reset (10_state.md R41): control, status and result registers 0, phases IDLE, handles none. The datapath
state is unspecified there: 0 is the model's choice (log entry 3). -/
def State.reset : State where
  cfg := Config.default
  enc :=
    { phase := .idle, width := 0, height := 0, channels := 0, colorspace := 0, inBuf := none, outBuf := none,
      outLen := 0, cache := Vector.replicate 64 ⟨0, 0, 0, 0⟩, prev := ⟨0, 0, 0, 0⟩, run := 0, pos := 0, n := 0 }
  dec :=
    { phase := .idle, inBuf := none, inLen := 0, outBuf := none, err := none, errOffset := 0, width := 0, height := 0,
      channels := 0, colorspace := 0, pixels := 0, cache := Vector.replicate 64 ⟨0, 0, 0, 0⟩, prev := ⟨0, 0, 0, 0⟩,
      cursor := 0, produced := 0, n := 0, l := 0, bodyEnd := 0 }
  mem := []
  host := []
  turns := []
  hostData := 0
  hostHandle := none
  freeCount := 0

end Sys2Proof.Machine
end

