-- ==== Sys2Proof/Machine/Ops.lean ====
section
/-!
DEFINITION. The named operations over memory, buffers, the colour caches and the engines' outputs, and the one
operation that ends a decode job with an error. Rules R10, R50 to R57, R100 to R106, R109, R169 and R208.
-/

namespace Sys2Proof.Machine

/-! ## Memory and buffers -/

/-- The canonical form: addresses strictly rising. -/
abbrev Memory.wf (m : Memory) : Prop := List.Pairwise (fun c d => c.1 < d.1) m

/-- The byte written last at an address, if any was. -/
def lookupByte : Memory → Nat → Option Byte
  | [], _ => none
  | (b, w) :: m, a => if a = b then some w else lookupByte m a

/-- Reads one byte of the host's memory (20_memory.md R57: no side effect). A byte nothing has written reads as a free
value (log entry 4). -/
def readByte (m : Memory) (a : Nat) : Byte := (lookupByte m a).getD (Config.unwrittenByte a)

/-- Writes one byte of the host's memory and keeps the canonical form. -/
def writeByte : Memory → Nat → Byte → Memory
  | [], a, v => [(a, v)]
  | (b, w) :: m, a, v =>
    if a < b then (a, v) :: (b, w) :: m
    else if a = b then (a, v) :: m
    else (b, w) :: writeByte m a v

/-- `MemRead`: `n` one-byte reads at rising addresses (R57). -/
def readBytes (m : Memory) (a : Nat) : Nat → List Byte
  | 0 => []
  | n + 1 => readByte m a :: readBytes m (a + 1) n

/-- `MemWrite`: one-byte writes at rising addresses (R57). -/
def writeBytes (m : Memory) (a : Nat) : List Byte → Memory
  | [] => m
  | v :: vs => writeBytes (writeByte m a v) (a + 1) vs

/-- Where a buffer lies; a handle that holds none has no bytes, and its base is never used. -/
def bufBase : Option Buffer → Nat
  | none => 0
  | some b => b.base

/-- How many bytes a buffer holds; none holds none. -/
def bufSize : Option Buffer → Nat
  | none => 0
  | some b => b.size

/-- Address `a` is one of the buffer's bytes. -/
def covers (b : Option Buffer) (a : Nat) : Bool :=
  decide (bufBase b ≤ a) && decide (a < bufBase b + bufSize b)

/-- Two buffers share a byte. -/
def overlap (b c : Option Buffer) : Bool :=
  decide (max (bufBase b) (bufBase c) < min (bufBase b + bufSize b) (bufBase c + bufSize c))

/-- DEC_IN as a buffer: its size is DEC_IN_LEN (R50). -/
def decInBuffer (d : Dec) : Option Buffer := d.inBuf.map fun base => ⟨base, d.inLen.toNat⟩

/-- Some buffer of ENC shares a byte with some buffer of DEC (R60). -/
def enginesOverlap (s : State) : Bool :=
  overlap s.enc.inBuf (decInBuffer s.dec) || overlap s.enc.inBuf s.dec.outBuf ||
    overlap s.enc.outBuf (decInBuffer s.dec) || overlap s.enc.outBuf s.dec.outBuf

/-! ## Pixels, hash and colour cache -/

/-- A number as a pixel counter, position or cursor holds it: cut to the counter width (00_scope.md R7, log entry 5).
Every counter has 64 bits of storage, which any value fits (10_state.md R27), so a wider counter acts as one of 64
bits. -/
def counter (cfg : Config) (x : Nat) : Word64 := BitVec.ofNat 64 (x % 2 ^ min cfg.counterWidth 64)

/-- `N = width * height`, without overflow in 64 bits (40_shared.md R109). -/
def pixelCount (cfg : Config) (width height : Word32) : Word64 := counter cfg (width.toNat * height.toNat)

/-- The bytes of one pixel in a pixel buffer: 4 for a 4-channel image, otherwise 3 (20_memory.md R51). -/
def pixelSize (channels : Byte) : Nat := if channels = 4 then 4 else 3

/-- A pixel as a pixel buffer holds it: r, g, b and, for 4 channels, a (R51, R52, 42_decoder.md R174). -/
def pixelBytes (channels : Byte) (px : Pixel) : List Byte :=
  if channels = 4 then [px.r, px.g, px.b, px.a] else [px.r, px.g, px.b]

/-- `Hash` (40_shared.md R100). -/
def pixelHash (px : Pixel) : Slot :=
  BitVec.ofNat 6 (px.r.toNat * 3 + px.g.toNat * 5 + px.b.toNat * 7 + px.a.toNat * 11)

/-- `CacheRead` (R103). -/
def cacheRead (c : Cache) (k : Slot) : Pixel := c.get ⟨k.toNat, k.isLt⟩

/-- `CacheWrite`: the slot written is the pixel's hash (R104). -/
def cacheWrite (c : Cache) (px : Pixel) : Cache := c.set (pixelHash px).toNat px (pixelHash px).isLt

/-- Every slot at `CACHE_INIT_PIXEL` (R106). -/
def cacheInit (cfg : Config) : Cache := Vector.replicate 64 cfg.cacheInitPixel

/-! ## The encoder's output -/

/-- `Emit`: appends bytes to ENC_OUT at offset ENC_OUT_LEN and adds their count to it (00_scope.md R10). -/
def emit (s : State) (bs : List Byte) : State :=
  { s with
    mem := writeBytes s.mem (bufBase s.enc.outBuf + s.enc.outLen.toNat) bs
    enc := { s.enc with outLen := BitVec.ofNat 64 (s.enc.outLen.toNat + bs.length) } }

/-- Emits opcodes in order. -/
def emitOpcodes (s : State) (is : List Instr) : State := emit s (is.flatMap encode)

/-! ## The decoder's output -/

/-- The address of pixel `i` of DEC_OUT (R51). -/
def decPixelAddr (d : Dec) (i : Nat) : Nat := bufBase d.outBuf + i * pixelSize d.channels

/-- `PutPixel` (42_decoder.md R169): the output pixel, its cache slot, PRODUCED and DEC_PIXELS. -/
def putPixel (s : State) (px : Pixel) : State :=
  let produced := counter s.cfg (s.dec.produced.toNat + 1)
  { s with
    mem := writeBytes s.mem (decPixelAddr s.dec s.dec.produced.toNat) (pixelBytes s.dec.channels px)
    dec := { s.dec with cache := cacheWrite s.dec.cache px, produced := produced, pixels := produced } }

/-- `repeat k times: PutPixel(px)` (R165). -/
def putPixels (s : State) (px : Pixel) : Nat → State
  | 0 => s
  | k + 1 => putPixels (putPixel s px) px k

/-- `DEC.PREV <- px`. -/
def setPrev (s : State) (px : Pixel) : State := { s with dec := { s.dec with prev := px } }

/-- `DEC.CURSOR <- DEC.CURSOR + len` (10_state.md R29). -/
def advance (s : State) (len : Nat) : State :=
  { s with dec := { s.dec with cursor := counter s.cfg (s.dec.cursor.toNat + len) } }

/-- DEC_OUT's content becomes unspecified (60_exceptions.md R209): every byte of the buffer a free value
(log entry 8). -/
def spoilOutput (s : State) : State :=
  { s with
    mem := writeBytes s.mem (bufBase s.dec.outBuf)
      ((List.range (bufSize s.dec.outBuf)).map (Config.spoiltByte s.freeCount))
    freeCount := s.freeCount + 1 }

/-- `raise Err(kind, cause, offset)` (R208): the one operation that ends a decode job with an error. It saves the
offset, sets the phase and the status, and changes no other register; there is no handler to go to and no return but a
new START (R210). The output it leaves is no result (R209). -/
def raiseErr (s : State) (e : DecErr) (offset : Word64) : State :=
  let t := spoilOutput s
  { t with dec := { t.dec with phase := .error, err := some e, errOffset := offset } }

/-! ## What an opcode ends with -/

/-- The opcode of length `len` ends before BODY_END (42_decoder.md R163, R164, R168, 60_exceptions.md R203). -/
def opcodeFits (s : State) (len : Nat) : Bool := decide (s.dec.cursor.toNat + len ≤ s.dec.bodyEnd.toNat)

/-- An opcode that produced pixel `px`: PutPixel, PREV, cursor (R163 to R168). -/
def retire (s : State) (px : Pixel) (len : Nat) : Host.Outcome State Fault Refusal :=
  match s.dec.outBuf with
  | none => .fault (.noBuffer .decOut)
  | some _ => .next (advance (setPrev (putPixel s px) px) len)

/-- A RUN of `k` pixels: PutPixel `k` times with PREV, cursor; PREV is not written (R165). -/
def retireRun (s : State) (k : Nat) : Host.Outcome State Fault Refusal :=
  match s.dec.outBuf with
  | none => .fault (.noBuffer .decOut)
  | some _ => .next (advance (putPixels s s.dec.prev k) 1)

end Sys2Proof.Machine
end

