-- ==== Sys2Proof/Machine/Operands.lean ====
section
/-!
DEFINITION. The operand forms: the pixel an ENC step fetches (41_encoder.md R121), the signed deltas and their ranges
(R130 to R132), and the channel sums of the decoder's DIFF and LUMA (42_decoder.md R167, R168, R170).
-/

namespace Sys2Proof.Machine

/-- The address of pixel `i` of ENC_IN (20_memory.md R51). -/
def encPixelAddr (e : Enc) (i : Nat) : Nat := bufBase e.inBuf + i * pixelSize e.channels

/-- `FetchPixel(i)` (41_encoder.md R121): alpha is 255 when the image has 3 channels (20_memory.md R52). -/
def fetchPixel (s : State) (i : Nat) : Pixel :=
  let a := encPixelAddr s.enc i
  { r := readByte s.mem a
    g := readByte s.mem (a + 1)
    b := readByte s.mem (a + 2)
    a := if s.enc.channels = 4 then readByte s.mem (a + 3) else 255 }

/-- A channel delta, current minus previous, as a signed number without wraparound (R130). -/
def delta (cur prev : Byte) : Int := (cur.toNat : Int) - (prev.toNat : Int)

/-- All three deltas fit a DIFF (R131). -/
def fitsDiff (dr dg db : Int) : Bool := inRange (-2) 1 dr && inRange (-2) 1 dg && inRange (-2) 1 db

/-- The green delta and the two cross terms fit a LUMA (R132). -/
def fitsLuma (dr dg db : Int) : Bool :=
  inRange (-32) 31 dg && inRange (-8) 7 (dr - dg) && inRange (-8) 7 (db - dg)

/-- `Chan(v, c)` (42_decoder.md R170): the sum itself in [0, 255]; otherwise modulo 256 under `wrap` and no value, an
error, under `error`. -/
def chan (p : DeltaOverflow) (v : Int) : Option Byte :=
  if inRange 0 255 v then some (byteOfInt v)
  else match p with
    | .wrap => some (byteOfInt v)
    | .error => none

/-- The pixel that the deltas make of PREV, alpha unchanged; none where a channel sum is an error (R167, R168). -/
def addDeltas (p : DeltaOverflow) (prev : Pixel) (dr dg db : Int) : Option Pixel :=
  match chan p (prev.r.toNat + dr), chan p (prev.g.toNat + dg), chan p (prev.b.toNat + db) with
  | some r, some g, some b => some ⟨r, g, b, prev.a⟩
  | _, _, _ => none

end Sys2Proof.Machine
end

