-- ==== Sys2Proof/Machine/Delta.lean ====
section
/-!
DEFINITION. The differential opcodes DIFF and LUMA (42_decoder.md R167, R168, R170).
-/

namespace Sys2Proof.Machine

/-- DIFF: each delta is added to PREV's channel (R167); a sum outside [0, 255] follows R170. -/
def execDiff (dr dg db : Int) (s : State) : Host.Outcome State Fault Refusal :=
  match addDeltas s.cfg.deltaOverflow s.dec.prev dr dg db with
  | some px => retire s px 1
  | none => .next (raiseErr s .deltaOverflow s.dec.cursor)

/-- LUMA: the red and blue deltas are the cross terms plus the green delta (R168). -/
def execLuma (dg drDg dbDg : Int) (s : State) : Host.Outcome State Fault Refusal :=
  if opcodeFits s 2 then
    match addDeltas s.cfg.deltaOverflow s.dec.prev (drDg + dg) dg (dbDg + dg) with
    | some px => retire s px 2
    | none => .next (raiseErr s .deltaOverflow s.dec.cursor)
  else .next (raiseErr s .truncatedLuma s.dec.cursor)

end Sys2Proof.Machine
end

