-- ==== Sys2Proof/Machine/Literal.lean ====
section
/-!
DEFINITION. The literal opcodes RGBA and RGB (42_decoder.md R163, R164).
-/

namespace Sys2Proof.Machine

/-- RGBA: the four literal bytes are the pixel (R163). -/
def execRgba (r g b a : Byte) (s : State) : Host.Outcome State Fault Refusal :=
  if opcodeFits s 5 then retire s ⟨r, g, b, a⟩ 5
  else .next (raiseErr s .truncatedRgba s.dec.cursor)

/-- RGB: the three literal bytes and PREV's alpha are the pixel (R164). -/
def execRgb (r g b : Byte) (s : State) : Host.Outcome State Fault Refusal :=
  if opcodeFits s 4 then retire s ⟨r, g, b, s.dec.prev.a⟩ 4
  else .next (raiseErr s .truncatedRgb s.dec.cursor)

end Sys2Proof.Machine
end

