-- ==== Sys2Proof/Machine/Reuse.lean ====
section
/-!
DEFINITION. The opcodes that reuse a pixel: INDEX (42_decoder.md R166) and RUN (R165, R171).
-/

namespace Sys2Proof.Machine

/-- INDEX: the pixel in cache slot `k`, whatever it hashes to (R166). -/
def execIndex (k : Slot) (s : State) : Host.Outcome State Fault Refusal :=
  retire s (cacheRead s.dec.cache k) 1

/-- The pixels still missing, `m` of R165. -/
def missing (d : Dec) : Nat := d.n.toNat - d.produced.toNat

/-- RUN: PREV as often as the run says, at most as often as pixels are missing; a longer run is an error where the
parameter says so (R165, R171). -/
def execRun (n : Nat) (s : State) : Host.Outcome State Fault Refusal :=
  if n > missing s.dec ∧ s.cfg.runOvershoot = .error then .next (raiseErr s .runOvershoot s.dec.cursor)
  else retireRun s (min n (missing s.dec))

end Sys2Proof.Machine
end

