-- ==== Sys2Proof/Machine/Dispatch.lean ====
section
/-!
DEFINITION. The decoder's execution of an opcode, one arm per opcode (42_decoder.md R161).
-/

namespace Sys2Proof.Machine

def exec (i : Instr) (s : State) : Host.Outcome State Fault Refusal :=
  match i with
  | .rgba r g b a => Sys2Proof.Machine.execRgba r g b a s
  | .rgb r g b => Sys2Proof.Machine.execRgb r g b s
  | .index k => Sys2Proof.Machine.execIndex k s
  | .diff dr dg db => Sys2Proof.Machine.execDiff dr dg db s
  | .luma dg drDg dbDg => Sys2Proof.Machine.execLuma dg drDg dbDg s
  | .run n => Sys2Proof.Machine.execRun n s

end Sys2Proof.Machine
end

