-- ==== Sys2Proof/Machine/Flags.lean ====
section
/-!
DEFINITION. The status registers as words: ENC_STATUS (10_state.md R35), DEC_STATUS (R38) and the error codes
(60_exceptions.md R201).
-/

namespace Sys2Proof.Machine

/-- ERR_KIND: 1 FormatError, 2 TruncatedStreamError, 3 UnderfilledOutputError (60_exceptions.md R201). -/
def errKind : DecErr → Nat
  | .badMagic => 1
  | .badChannels => 1
  | .badEndMarker => 1
  | .deltaOverflow => 1
  | .runOvershoot => 1
  | .truncatedHeader => 2
  | .truncatedRgba => 2
  | .truncatedRgb => 2
  | .truncatedLuma => 2
  | .underfilled => 3

/-- ERR_CAUSE (R201). -/
def errCause : DecErr → Nat
  | .badMagic => 1
  | .badChannels => 2
  | .badEndMarker => 3
  | .deltaOverflow => 4
  | .runOvershoot => 5
  | .truncatedHeader => 1
  | .truncatedRgba => 2
  | .truncatedRgb => 3
  | .truncatedLuma => 4
  | .underfilled => 0

/-- ENC_STATUS: BUSY in bit 0, DONE in bit 1 (10_state.md R35). -/
def encStatus (s : State) : Word32 :=
  match s.enc.phase with
  | .idle => 0
  | .busy => 1
  | .done => 2

/-- BUSY, DONE and ERR, bits 0, 1 and 2 of DEC_STATUS (R38). -/
def decPhaseBits : DecPhase → Nat
  | .idle => 0
  | .busy => 1
  | .done => 2
  | .error => 4

/-- ERR_KIND in bits [7:4] and ERR_CAUSE in bits [15:8], 0 without an error (R38). -/
def decErrBits : Option DecErr → Nat
  | none => 0
  | some e => errKind e * 2 ^ 4 + errCause e * 2 ^ 8

/-- DEC_STATUS (R38). -/
def decStatus (s : State) : Word32 := BitVec.ofNat 32 (decPhaseBits s.dec.phase + decErrBits s.dec.err)

/-- ENC is BUSY. -/
def encBusy (s : State) : Bool := decide (s.enc.phase = .busy)

/-- DEC is BUSY. -/
def decBusy (s : State) : Bool := decide (s.dec.phase = .busy)

end Sys2Proof.Machine
end

