-- ==== Sys2Proof/Machine/Header.lean ====
section
/-!
DEFINITION. The header pack/unpack unit and the end marker: 40_shared.md R107, R108, 30_encoding.md R70 to R73.
-/

namespace Sys2Proof.Machine

/-- The magic `qoif` as ASCII bytes (30_encoding.md R71). -/
def magic : List Byte := [0x71, 0x6F, 0x69, 0x66]

/-- The end marker: seven 0x00 bytes and one 0x01 byte (R73). -/
def endMarker : List Byte := [0x00, 0x00, 0x00, 0x00, 0x00, 0x00, 0x00, 0x01]

/-- A `u32` in big-endian order (20_memory.md R54). -/
def be32Bytes (w : Word32) : List Byte :=
  [w.extractLsb' 24 8, w.extractLsb' 16 8, w.extractLsb' 8 8, w.extractLsb' 0 8]

/-- `BE32`: four bytes as a big-endian `u32` (00_scope.md R10). -/
def be32 (b0 b1 b2 b3 : Byte) : Word32 :=
  BitVec.ofNat 32 (b0.toNat * 2 ^ 24 + b1.toNat * 2 ^ 16 + b2.toNat * 2 ^ 8 + b3.toNat)

/-- `HeaderPack` (40_shared.md R107). -/
def headerPack (width height : Word32) (channels colorspace : Byte) : List Byte :=
  magic ++ be32Bytes width ++ be32Bytes height ++ [channels, colorspace]

/-- The four fields of a header. -/
structure Header where
  width : Word32
  height : Word32
  channels : Byte
  colorspace : Byte
  deriving DecidableEq, Repr

/-- The fields of a header whose first byte is at address `base` (R108). -/
def readHeader (m : Memory) (base : Nat) : Header where
  width := be32 (readByte m (base + 4)) (readByte m (base + 5)) (readByte m (base + 6)) (readByte m (base + 7))
  height := be32 (readByte m (base + 8)) (readByte m (base + 9)) (readByte m (base + 10)) (readByte m (base + 11))
  channels := readByte m (base + 12)
  colorspace := readByte m (base + 13)

/-- The header result registers (10_state.md R40), written before the channel check. -/
def setHeaderRegs (s : State) (h : Header) : State :=
  { s with
    dec := { s.dec with width := h.width, height := h.height, channels := h.channels, colorspace := h.colorspace } }

end Sys2Proof.Machine
end

