-- ==== Sys2Proof/Machine/Decoder.lean ====
section
/-!
DEFINITION. The decoder engine around the opcodes: job start, opcode fetch and dispatch, trailer check
(42_decoder.md R160 to R162, R172).
-/

namespace Sys2Proof.Machine

/-! ## Job start -/

/-- What START clears before the header is read (R160, 10_state.md R38 to R40). -/
def decClear (s : State) : State :=
  { s with
    dec := { s.dec with
      phase := .busy, err := none, errOffset := 0, width := 0, height := 0, channels := 0, colorspace := 0, pixels := 0,
      l := counter s.cfg s.dec.inLen.toNat } }

/-- `BODY_END = max(14, L - 8)` (10_state.md R31). -/
def bodyEndOf (cfg : Config) (l : Word64) : Word64 := counter cfg (max 14 (l.toNat - 8))

/-- The job-start values once the header is accepted (R160). -/
def decLaunch (s : State) : State :=
  { s with
    dec := { s.dec with
      n := pixelCount s.cfg s.dec.width s.dec.height, cache := cacheInit s.cfg, prev := s.cfg.prevInitPixel, produced := 0,
      cursor := counter s.cfg 14, bodyEnd := bodyEndOf s.cfg s.dec.l } }

/-- `width * height` of the image the header declares (10_state.md R26). -/
def decJobPixels (d : Dec) : Nat := d.width.toNat * d.height.toNat

/-- The rest of DecStart once the header registers are written: the channel check (40_shared.md R108), the refusals and
the job-start values (R160). What is refused is the image's own `width * height`, whatever the counter width (00_scope.md R7,
log entry 5). -/
def decAccept (s : State) : Host.Outcome State Fault Refusal :=
  let n := decJobPixels s.dec
  if s.dec.channels ≠ 3 ∧ s.dec.channels ≠ 4 then .next (raiseErr s .badChannels 12)
  else if n > s.cfg.maxPixels then .refused (.tooManyPixels .dec)
  else if bufSize s.dec.outBuf < n * s.dec.channels.toNat then .refused (.outputTooSmall .dec)
  else .next (decLaunch s)

/-- `HeaderUnpack` and what follows it: length, then magic, then channels (40_shared.md R108). -/
def decHeader (s : State) : Host.Outcome State Fault Refusal :=
  if s.dec.l.toNat < 14 then .next (raiseErr s .truncatedHeader 0)
  else match s.dec.inBuf with
    | none => .fault (.noBuffer .decIn)
    | some base =>
      if readBytes s.mem base 4 ≠ magic then .next (raiseErr s .badMagic 0)
      else decAccept (setHeaderRegs s (readHeader s.mem base))

/-- `DecStart` (R160), refused where the busy engines' buffers would overlap (60_exceptions.md R216); a job whose own
buffers overlap runs (log entry 10). -/
def decStart (s : State) : Host.Outcome State Fault Refusal :=
  if encBusy s && enginesOverlap s then .refused .enginesOverlap
  else decHeader (decClear s)

/-! ## The opcode step -/

/-- The stream byte at `c + i`, if it lies before BODY_END: no opcode step reads a byte at or beyond it (R161). A byte
that is not read stands as 0 and has no effect: the opcode that would need it is truncated. -/
def streamByte (s : State) (base i : Nat) : Byte :=
  if s.dec.cursor.toNat + i < s.dec.bodyEnd.toNat then readByte s.mem (base + s.dec.cursor.toNat + i) else 0

/-- The bytes an opcode step has before it: as many as the longest opcode. -/
def fetchWindow (s : State) (base : Nat) : List Byte :=
  [streamByte s base 0, streamByte s base 1, streamByte s base 2, streamByte s base 3, streamByte s base 4]

/-- The opcode at the cursor. Five bytes always hold one (30_encoding.md R83). -/
def fetchOpcode (s : State) (base : Nat) : Option Instr :=
  match decode (fetchWindow s base) with
  | .ok (i, _) => some i
  | .error _ => none

/-- `DecStep` (R161): underfilled if the opcode region has ended (R162), otherwise fetch and execute. -/
def decStep (s : State) : Host.Outcome State Fault Refusal :=
  if s.dec.bodyEnd.toNat ≤ s.dec.cursor.toNat then .next (raiseErr s .underfilled s.dec.cursor)
  else match s.dec.inBuf with
    | none => .fault (.noBuffer .decIn)
    | some base =>
      match fetchOpcode s base with
      | some i => exec i s
      | none => .fault .noOpcode

/-! ## The trailer step -/

/-- How many bytes must remain for the end marker: exactly 8, or at least 8 where trailing bytes are allowed (R172). -/
def trailerLengthOk (s : State) : Bool :=
  if s.cfg.allowTrailingBytes then decide (s.dec.cursor.toNat + 8 ≤ s.dec.l.toNat)
  else decide (s.dec.cursor.toNat + 8 = s.dec.l.toNat)

/-- `DecTrailer` (R172, R173). -/
def decTrailer (s : State) : Host.Outcome State Fault Refusal :=
  if !trailerLengthOk s then .next (raiseErr s .badEndMarker s.dec.cursor)
  else match s.dec.inBuf with
    | none => .fault (.noBuffer .decIn)
    | some base =>
      if readBytes s.mem (base + s.dec.cursor.toNat) 8 = endMarker then
        .next { s with dec := { s.dec with phase := .done } }
      else .next (raiseErr s .badEndMarker s.dec.cursor)

/-- One step of DEC: an opcode step while pixels are missing, then the trailer step (R161, R172); no step while it is
not BUSY. -/
def decAct (s : State) : Host.Outcome State Fault Refusal :=
  if decBusy s then
    if s.dec.produced.toNat < s.dec.n.toNat then decStep s else decTrailer s
  else .next s

end Sys2Proof.Machine
end

