-- ==== Sys2Proof/Machine/Encoder.lean ====
section
/-!
DEFINITION. The encoder engine: job start, opcode selection per pixel, job finish (41_encoder.md R120 to R136).
-/

namespace Sys2Proof.Machine

/-! ## Job start -/

/-- `N` of the encode job the registers describe (R120). -/
def encJobPixels (e : Enc) : Nat := e.width.toNat * e.height.toNat

/-- The bytes ENC_OUT must hold for `n` pixels: `22 + 5*N` (20_memory.md R63). -/
def encCapacity (n : Nat) : Nat := 22 + 5 * n

/-- The channel count and the colorspace are legal (10_state.md R34). -/
def encConfigLegal (e : Enc) : Bool :=
  (decide (e.channels = 3) || decide (e.channels = 4)) && (decide (e.colorspace = 0) || decide (e.colorspace = 1))

/-- The job-start state (R120): BUSY, the header emitted, cache, PREV, run counter and position initialised. -/
def encLaunch (s : State) : State :=
  let e := s.enc
  let t := emit { s with enc := { e with phase := .busy, outLen := 0 } } (headerPack e.width e.height e.channels e.colorspace)
  { t with
    enc := { t.enc with
      cache := cacheInit s.cfg, prev := s.cfg.prevInitPixel, run := 0, pos := 0, n := pixelCount s.cfg e.width e.height } }

/-- `EncStart` (R120). An illegal configuration is refused (60_exceptions.md R211, R216); a job whose own buffers overlap
runs (log entry 10). -/
def encStart (s : State) : Host.Outcome State Fault Refusal :=
  if decBusy s && enginesOverlap s then .refused .enginesOverlap
  else if !encConfigLegal s.enc then .refused .illegalEncConfig
  else if bufSize s.enc.inBuf ≠ encJobPixels s.enc * s.enc.channels.toNat then .refused .encInputSize
  else if bufSize s.enc.outBuf < encCapacity (encJobPixels s.enc) then .refused (.outputTooSmall .enc)
  else if encJobPixels s.enc > s.cfg.maxPixels then .refused (.tooManyPixels .enc)
  else .next (encLaunch s)

/-! ## The pixel step -/

/-- The opcode that codes `px` by its difference from `prev` or as a literal (R129 to R133). -/
def differOpcode (prev px : Pixel) : Instr :=
  let dr := delta px.r prev.r
  let dg := delta px.g prev.g
  let db := delta px.b prev.b
  if px.a ≠ prev.a then .rgba px.r px.g px.b px.a
  else if fitsDiff dr dg db then .diff dr dg db
  else if fitsLuma dr dg db then .luma dg (dr - dg) (db - dg)
  else .rgb px.r px.g px.b

/-- The opcode for a pixel that differs from `prev`, and the cache after it: INDEX on a hit, with the cache as it was
(R127); otherwise the pixel is stored and coded (R128 to R133). -/
def selectOpcode (c : Cache) (prev px : Pixel) : Instr × Cache :=
  if cacheRead c (pixelHash px) = px then (.index (pixelHash px), c)
  else (differOpcode prev px, cacheWrite c px)

/-- What one pixel step emits and leaves in the run counter and the cache. -/
structure Plan where
  opcodes : List Instr
  run : Nat
  cache : Cache
  deriving DecidableEq, Repr

/-- The pending RUN, if there is one (R126, R136). -/
def pendingRun (e : Enc) : List Instr := if e.run.toNat > 0 then [.run e.run.toNat] else []

/-- Pixel `px` extends the run; the run is emitted at the cap of 62 or at the last pixel (R123 to R125, R238). -/
def planRun (e : Enc) (last : Bool) : Plan :=
  let r := e.run.toNat + 1
  if r = 62 ∨ last = true then ⟨[.run r], 0, e.cache⟩ else ⟨[], r, e.cache⟩

/-- The whole selection logic of `EncStep` (R122), first applicable rule first. -/
def planPixel (e : Enc) (px : Pixel) (last : Bool) : Plan :=
  if px = e.prev then planRun e last
  else
    let sel := selectOpcode e.cache e.prev px
    ⟨pendingRun e ++ [sel.1], 0, sel.2⟩

/-- The end of a pixel step: the opcodes emitted, the run counter and the cache written, `PREV <- px` (R134) and
`POS <- POS + 1` (R135). -/
def applyPlan (s : State) (px : Pixel) (p : Plan) : State :=
  let t := emitOpcodes s p.opcodes
  { t with
    enc := { t.enc with
      cache := p.cache, run := BitVec.ofNat 6 p.run, prev := px, pos := counter s.cfg (t.enc.pos.toNat + 1) } }

/-- The pixel that the next pixel step codes. -/
def encPixel (s : State) : Pixel := fetchPixel s s.enc.pos.toNat

/-- The next pixel is the last of the image. -/
def encLast (s : State) : Bool := decide (s.enc.pos.toNat + 1 = s.enc.n.toNat)

/-- `EncStep` (R122). -/
def encStep (s : State) : Host.Outcome State Fault Refusal :=
  if s.enc.inBuf = none then .fault (.noBuffer .encIn)
  else if s.enc.outBuf = none then .fault (.noBuffer .encOut)
  else .next (applyPlan s (encPixel s) (planPixel s.enc (encPixel s) (encLast s)))

/-! ## Job finish -/

/-- `EncFinish` (R136): any pending run, then the end marker; DONE. -/
def encFinish (s : State) : Host.Outcome State Fault Refusal :=
  if s.enc.outBuf = none then .fault (.noBuffer .encOut)
  else
    let t := emit (emitOpcodes s (pendingRun s.enc)) endMarker
    .next { t with enc := { t.enc with run := 0, phase := .done } }

/-- One step of ENC: a pixel step while pixels are left, then the finish step (R122, R135, R136); no step while it is
not BUSY. -/
def encAct (s : State) : Host.Outcome State Fault Refusal :=
  if encBusy s then
    if s.enc.pos.toNat < s.enc.n.toNat then encStep s else encFinish s
  else .next s

end Sys2Proof.Machine
end

