-- ==== Sys2Proof/Machine/Bus.lean ====
section
/-!
DEFINITION. What the host does to the block: registers (10_state.md R34 to R40), buffers (20_memory.md R60,
70_reset_and_hazards.md R233), START, power-on reset (R230), and the refusals of 60_exceptions.md R216.
-/

namespace Sys2Proof.Machine

/-- The engine a register belongs to. -/
def regEngine : Reg → Engine
  | .encWidth => .enc
  | .encHeight => .enc
  | .encChannels => .enc
  | .encColorspace => .enc
  | .encCtrl => .enc
  | .encStatus => .enc
  | .encOutLen => .enc
  | .decInLen => .dec
  | .decCtrl => .dec
  | .decStatus => .dec
  | .decErrOffset => .dec
  | .decWidth => .dec
  | .decHeight => .dec
  | .decChannels => .dec
  | .decColorspace => .dec
  | .decPixels => .dec

/-- The engine a buffer belongs to. -/
def bufEngine : BufName → Engine
  | .encIn => .enc
  | .encOut => .enc
  | .decIn => .dec
  | .decOut => .dec

/-- The engine is BUSY. -/
def engineBusy (s : State) : Engine → Bool
  | .enc => encBusy s
  | .dec => decBusy s

/-- A register's value, zero-extended. START and the reserved bits read 0 (R34, R37, R38). -/
def regValue (s : State) : Reg → Word64
  | .encWidth => s.enc.width.setWidth 64
  | .encHeight => s.enc.height.setWidth 64
  | .encChannels => s.enc.channels.setWidth 64
  | .encColorspace => s.enc.colorspace.setWidth 64
  | .encCtrl => 0
  | .encStatus => (encStatus s).setWidth 64
  | .encOutLen => s.enc.outLen
  | .decInLen => s.dec.inLen
  | .decCtrl => 0
  | .decStatus => (decStatus s).setWidth 64
  | .decErrOffset => s.dec.errOffset
  | .decWidth => s.dec.width.setWidth 64
  | .decHeight => s.dec.height.setWidth 64
  | .decChannels => s.dec.channels.setWidth 64
  | .decColorspace => s.dec.colorspace.setWidth 64
  | .decPixels => s.dec.pixels

/-- A read returns the value to the host and has no other effect. -/
def readReg (s : State) (r : Reg) : State := { s with hostData := regValue s r }

/-- A write to a register of an engine that is not BUSY: a configuration register takes the value, START (bit 0 of a
control register) starts a job, and a host-read-only register ignores the write (log entry 11). -/
def storeReg (s : State) (r : Reg) (v : Word64) : Host.Outcome State Fault Refusal :=
  match r with
  | .encWidth => .next { s with enc := { s.enc with width := v.setWidth 32 } }
  | .encHeight => .next { s with enc := { s.enc with height := v.setWidth 32 } }
  | .encChannels => .next { s with enc := { s.enc with channels := v.setWidth 8 } }
  | .encColorspace => .next { s with enc := { s.enc with colorspace := v.setWidth 8 } }
  | .encCtrl => if v.getLsbD 0 then encStart s else .next s
  | .encStatus => .next s
  | .encOutLen => .next s
  | .decInLen => .next { s with dec := { s.dec with inLen := v } }
  | .decCtrl => if v.getLsbD 0 then decStart s else .next s
  | .decStatus => .next s
  | .decErrOffset => .next s
  | .decWidth => .next s
  | .decHeight => .next s
  | .decChannels => .next s
  | .decColorspace => .next s
  | .decPixels => .next s

/-- A register write by name; refused while the register's engine is BUSY (R34, R37, R216). -/
def writeReg (s : State) (r : Reg) (v : Word64) : Host.Outcome State Fault Refusal :=
  if engineBusy s (regEngine r) then .refused (.writeWhileBusy (regEngine r)) else storeReg s r v

/-- A handle register takes a buffer. DEC_IN keeps the base: its size is DEC_IN_LEN (R50). -/
def storeBuffer (s : State) (b : BufName) (buf : Buffer) : State :=
  match b with
  | .encIn => { s with enc := { s.enc with inBuf := some buf } }
  | .encOut => { s with enc := { s.enc with outBuf := some buf } }
  | .decIn => { s with dec := { s.dec with inBuf := some buf.base } }
  | .decOut => { s with dec := { s.dec with outBuf := some buf } }

/-- A handle write; refused while its engine is BUSY (R216). -/
def setBuffer (s : State) (b : BufName) (buf : Buffer) : Host.Outcome State Fault Refusal :=
  if engineBusy s (bufEngine b) then .refused (.writeWhileBusy (bufEngine b)) else .next (storeBuffer s b buf)

/-- A handle register's value; that of DEC_IN with its size DEC_IN_LEN (20_memory.md R50). -/
def bufValue (s : State) : BufName → Option Buffer
  | .encIn => s.enc.inBuf
  | .encOut => s.enc.outBuf
  | .decIn => decInBuffer s.dec
  | .decOut => s.dec.outBuf

/-- A handle read (R34, R37) returns the handle and has no other effect. -/
def readBuffer (s : State) (b : BufName) : State := { s with hostHandle := bufValue s b }

/-- The register that REG_MAP places at a bus address (20_memory.md R58); the first entry of an address counts (log entry
6). -/
def mappedReg (cfg : Config) (addr : Nat) : Option HostReg :=
  (cfg.regMap.find? fun e => decide (e.2 = addr)).map Prod.fst

/-- A write by bus address: the write of the register mapped there. A handle register takes a free buffer, because the
spec gives a handle no bus form; where nothing is mapped the write reaches no register (log entry 6). -/
def busWrite (s : State) (addr : Nat) (v : Word64) : Host.Outcome State Fault Refusal :=
  match mappedReg s.cfg addr with
  | some (.num r) => writeReg s r v
  | some (.handle b) => setBuffer s b (Config.handleOfWord v)
  | none => .next s

/-- A read by bus address: the read of the register mapped there. A handle reads as a free word of the handle; where
nothing is mapped the read returns a free word (log entry 6). -/
def busRead (s : State) (addr : Nat) : State :=
  match mappedReg s.cfg addr with
  | some (.num r) => readReg s r
  | some (.handle b) => { s with hostData := Config.wordOfHandle (bufValue s b) }
  | none => { s with hostData := Config.unmappedBusWord s.freeCount addr, freeCount := s.freeCount + 1 }

/-- The host writes one byte; refused in a BUSY engine's buffers (R60, R216). -/
def hostWrite (s : State) (a : Nat) (v : Byte) : Host.Outcome State Fault Refusal :=
  if encBusy s && (covers s.enc.inBuf a || covers s.enc.outBuf a) then .refused (.bufferTouchedWhileBusy .enc)
  else if decBusy s && (covers (decInBuffer s.dec) a || covers s.dec.outBuf a) then
    .refused (.bufferTouchedWhileBusy .dec)
  else .next { s with mem := writeByte s.mem a v }

/-- The host reads one byte; refused in a BUSY engine's output buffer (R60, R216). -/
def hostRead (s : State) (a : Nat) : Host.Outcome State Fault Refusal :=
  if encBusy s && covers s.enc.outBuf a then .refused (.bufferTouchedWhileBusy .enc)
  else if decBusy s && covers s.dec.outBuf a then .refused (.bufferTouchedWhileBusy .dec)
  else .next { s with hostData := (readByte s.mem a).setWidth 64 }

/-- A colour cache after a power-on reset: unspecified (10_state.md R41). `bank` tells the two caches apart. -/
def powerOnCache (epoch bank : Nat) : Cache := Vector.ofFn fun k => Config.powerOnPixel epoch (bank + k.val)

/-- A pixel counter, position or cursor after a power-on reset: unspecified (R41). -/
def powerOnCounter (cfg : Config) (epoch reg : Nat) : Word64 := counter cfg (Config.powerOnWord epoch reg).toNat

/-- Power-on reset (70_reset_and_hazards.md R230, 10_state.md R41): control, status and result registers 0, phases IDLE,
handles none; the datapath state takes free values (log entry 3). The host's memory is not the block's. DESIGN CHOICE: the
reset may come at any turn of the host, while an engine is BUSY as well; it then ends that job, and the bytes the job has
written stay (log entry 3). -/
def powerOn (s : State) : State :=
  let k := s.freeCount
  { s with
    enc :=
      { phase := .idle, width := 0, height := 0, channels := 0, colorspace := 0, inBuf := none, outBuf := none,
        outLen := 0, cache := powerOnCache k 0, prev := Config.powerOnPixel k 128,
        run := (Config.powerOnWord k 0).setWidth 6, pos := powerOnCounter s.cfg k 1, n := powerOnCounter s.cfg k 2 }
    dec :=
      { phase := .idle, inBuf := none, inLen := 0, outBuf := none, err := none, errOffset := 0, width := 0, height := 0,
        channels := 0, colorspace := 0, pixels := 0, cache := powerOnCache k 64, prev := Config.powerOnPixel k 129,
        cursor := powerOnCounter s.cfg k 3, produced := powerOnCounter s.cfg k 4, n := powerOnCounter s.cfg k 5,
        l := powerOnCounter s.cfg k 6, bodyEnd := powerOnCounter s.cfg k 7 }
    freeCount := k + 1 }

/-- One host action. -/
def hostDo (a : HostAction) (s : State) : Host.Outcome State Fault Refusal :=
  match a with
  | .writeReg r v => writeReg s r v
  | .readReg r => .next (readReg s r)
  | .busWrite addr v => busWrite s addr v
  | .busRead addr => .next (busRead s addr)
  | .setBuffer b buf => setBuffer s b buf
  | .readBuffer b => .next (readBuffer s b)
  | .writeMem addr v => hostWrite s addr v
  | .readMem addr => hostRead s addr
  | .powerOn => .next (powerOn s)

/-- The host takes its oldest pending action; with none pending it takes no step. -/
def hostAct (s : State) : Host.Outcome State Fault Refusal :=
  match s.host with
  | [] => .next s
  | a :: rest => hostDo a { s with host := rest }

/-! ## Who moves, and placing an opcode -/

/-- The agent that moves next: the first turn listed; with none listed DEC while it is BUSY, then ENC while it is BUSY,
then the host while it has an action (log entry 2). -/
def nextAgent (s : State) : Option Agent :=
  match s.turns with
  | a :: _ => some a
  | [] =>
    if decBusy s then some .dec
    else if encBusy s then some .enc
    else if s.host = [] then none
    else some .host

/-- The turn is taken. -/
def popTurn (s : State) : State := { s with turns := s.turns.tail }

/-- One step of an agent; with no agent to move the machine stays as it is. -/
def agentAct (a : Option Agent) (s : State) : Host.Outcome State Fault Refusal :=
  match a with
  | some .host => hostAct s
  | some .enc => encAct s
  | some .dec => decAct s
  | none => .next s

/-- An address past both of ENC's buffers. -/
def freeBase (s : State) : Nat :=
  max (bufBase s.enc.inBuf + bufSize s.enc.inBuf) (bufBase s.enc.outBuf + bufSize s.enc.outBuf)

/-- The stream of a 62 x 1 four-channel image whose first opcode is the instruction given by `nbits` and `w`: the header,
five bytes, the end marker. No RUN is longer than 62. -/
def wordStream (nbits w : Nat) : List Byte := headerPack 62 1 4 0 ++ tableBytes nbits w ++ endMarker

/-- The host has placed that stream past ENC's buffers and an output buffer of 62 pixels after it, DEC_IN_LEN is its
length. -/
def placeStream (s : State) (nbits w : Nat) : State :=
  let base := freeBase s
  { s with
    mem := writeBytes s.mem base (wordStream nbits w)
    dec := { s.dec with inBuf := some base, inLen := 27, outBuf := some ⟨base + 27, 248⟩ } }

/-- A decode job has started on that stream, exactly as DecStart leaves it (R160). -/
def startOnWord (s : State) (nbits w : Nat) : State :=
  decLaunch (setHeaderRegs (decClear (placeStream s nbits w)) ⟨62, 1, 4, 0⟩)

end Sys2Proof.Machine
end

