-- ==== Sys2Proof/Machine/Step.lean ====
section
/-!
DEFINITION. One step of the machine: the agent whose turn it is takes one step (10_state.md R20, R21).
-/

namespace Sys2Proof.Machine

/-- One step (R21). -/
def step (s : State) : Host.Outcome State Fault Refusal := agentAct (nextAgent s) (popTurn s)

/-- DEC is at the first opcode of a job whose stream begins with this instruction, and the next turn is DEC's. A stream
comes to run by being placed in DEC_IN and started (log entry 12). -/
def State.withFetchWord (s : State) (nbits w : Nat) : State :=
  let t := startOnWord s nbits w
  { t with turns := .dec :: t.turns }

end Sys2Proof.Machine
end

