-- ==== Sys2Proof/Safety.lean ====
section
/-!
DEFINITION. The terms the claims use: the bounds a running job keeps, the machine's invariant, and what an opcode, an
error, and an encoder step leave behind. They are written from the spec's rules, field by field.
-/

namespace Sys2Proof.Machine

/-! ## The invariant -/

/-- What holds of ENC while it is BUSY: a legal configuration (10_state.md R34), `N` (R26), the position (R25), the run
counter (R24), the output bound of 20_memory.md R63, and the buffers' sizes (R50). -/
structure EncJobOk (cfg : Config) (e : Enc) : Prop where
  channels : e.channels = 3 ∨ e.channels = 4
  colorspace : e.colorspace = 0 ∨ e.colorspace = 1
  count : e.n.toNat = e.width.toNat * e.height.toNat
  limit : e.n.toNat ≤ cfg.maxPixels
  pos : e.pos.toNat ≤ e.n.toNat
  run : e.run.toNat ≤ 61
  runPos : e.run.toNat ≤ e.pos.toNat
  flushed : e.pos.toNat = e.n.toNat → e.run = 0
  emitted : e.outLen.toNat + 5 * e.run.toNat ≤ 14 + 5 * e.pos.toNat
  inSize : bufSize e.inBuf = e.n.toNat * e.channels.toNat
  outSize : 22 + 5 * e.n.toNat ≤ bufSize e.outBuf

/-- What holds of DEC while it is BUSY: the channel count (30_encoding.md R85), `N` (10_state.md R26), DEC_PIXELS (R40),
the cursor (R29), L and BODY_END (R31), and the output's size (20_memory.md R50). -/
structure DecJobOk (cfg : Config) (d : Dec) : Prop where
  channels : d.channels = 3 ∨ d.channels = 4
  count : d.n.toNat = d.width.toNat * d.height.toNat
  limit : d.n.toNat ≤ cfg.maxPixels
  pixels : d.pixels = d.produced
  produced : d.produced.toNat ≤ d.n.toNat
  attached : d.inBuf ≠ none
  length : d.l = d.inLen
  header : 14 ≤ d.l.toNat
  bodyEnd : d.bodyEnd.toNat = max 14 (d.l.toNat - 8)
  cursorLow : 14 ≤ d.cursor.toNat
  cursorHigh : d.cursor.toNat ≤ d.bodyEnd.toNat
  outSize : d.n.toNat * d.channels.toNat ≤ bufSize d.outBuf

/-- The machine's invariant: the memory is in canonical form, a running job keeps its bounds, an error code stands in
DEC_STATUS exactly in the ERROR phase (10_state.md R38), two busy engines share no byte (20_memory.md R60), and the
counters have at least the 64 bits of 10_state.md R27. -/
structure Inv (s : State) : Prop where
  wide : 64 ≤ s.cfg.counterWidth
  mem : Memory.wf s.mem
  enc : s.enc.phase = .busy → EncJobOk s.cfg s.enc
  dec : s.dec.phase = .busy → DecJobOk s.cfg s.dec
  err : s.dec.phase = .error ↔ s.dec.err ≠ none
  apart : s.enc.phase = .busy → s.dec.phase = .busy → enginesOverlap s = false

/-- Every pixel counter, position and cursor fits the counter width (00_scope.md R7). -/
structure CountersFit (s : State) : Prop where
  encPos : s.enc.pos.toNat < 2 ^ s.cfg.counterWidth
  encN : s.enc.n.toNat < 2 ^ s.cfg.counterWidth
  cursor : s.dec.cursor.toNat < 2 ^ s.cfg.counterWidth
  produced : s.dec.produced.toNat < 2 ^ s.cfg.counterWidth
  pixels : s.dec.pixels.toNat < 2 ^ s.cfg.counterWidth
  decN : s.dec.n.toNat < 2 ^ s.cfg.counterWidth
  length : s.dec.l.toNat < 2 ^ s.cfg.counterWidth
  bodyEnd : s.dec.bodyEnd.toNat < 2 ^ s.cfg.counterWidth

/-! ## Memory frames -/

/-- Every byte outside the `n` bytes at `a` reads as before. -/
def SameOutside (m m' : Memory) (a n : Nat) : Prop :=
  ∀ b, b < a ∨ a + n ≤ b → readByte m' b = readByte m b

/-- Every byte outside a buffer reads as before. -/
def SameOutsideBuffer (m m' : Memory) (b : Option Buffer) : Prop :=
  ∀ a, covers b a = false → readByte m' a = readByte m a

/-! ## Job starts -/

/-- DEC's registers when START has cleared them and before the header is read (42_decoder.md R160, 10_state.md R38 to
R40). -/
def decStarted (d : Dec) : Dec :=
  { d with phase := .busy, err := none, errOffset := 0, width := 0, height := 0, channels := 0, colorspace := 0, pixels := 0,
           l := d.inLen }

/-- DEC's registers when the header `w, h, c, cs` has been unpacked into the result registers (40_shared.md R108). -/
def decUnpacked (d : Dec) (w h : Word32) (c cs : Byte) : Dec :=
  { decStarted d with width := w, height := h, channels := c, colorspace := cs }

/-- The host may start DEC: it is not BUSY and, while ENC is BUSY, its buffers are apart from ENC's (10_state.md R37,
20_memory.md R60); DEC_IN_LEN fits the counter width, as it always does with the 64 bits of 10_state.md R27. -/
structure DecMayStart (s : State) : Prop where
  lengthFits : s.dec.inLen.toNat < 2 ^ s.cfg.counterWidth
  notBusy : s.dec.phase ≠ .busy
  enginesApart : s.enc.phase = .busy → enginesOverlap s = false

/-- The host may start ENC, likewise (10_state.md R34). -/
structure EncMayStart (s : State) : Prop where
  notBusy : s.enc.phase ≠ .busy
  enginesApart : s.dec.phase = .busy → enginesOverlap s = false

/-- The configuration an encode job is admitted with (10_state.md R34, 41_encoder.md R120). -/
structure EncAdmitted (s : State) : Prop where
  channels : s.enc.channels = 3 ∨ s.enc.channels = 4
  colorspace : s.enc.colorspace = 0 ∨ s.enc.colorspace = 1
  inSize : bufSize s.enc.inBuf = s.enc.width.toNat * s.enc.height.toNat * s.enc.channels.toNat
  outSize : 22 + 5 * (s.enc.width.toNat * s.enc.height.toNat) ≤ bufSize s.enc.outBuf
  limit : s.enc.width.toNat * s.enc.height.toNat ≤ s.cfg.maxPixels

/-! ## What a decoder step leaves behind -/

/-- DEC can execute an opcode of `len` bytes without truncation: it has an output buffer and a legal channel count,
pixels are missing, the opcode ends before BODY_END, and N and BODY_END fit the counter width, as they do in every state
that a run reaches. -/
structure OpcodeReady (s : State) (out : Buffer) (len : Nat) : Prop where
  out : s.dec.outBuf = some out
  channels : s.dec.channels = 3 ∨ s.dec.channels = 4
  missing : s.dec.produced.toNat < s.dec.n.toNat
  fits : s.dec.cursor.toNat + len ≤ s.dec.bodyEnd.toNat
  countWidth : s.dec.n.toNat < 2 ^ s.cfg.counterWidth
  bodyWidth : s.dec.bodyEnd.toNat < 2 ^ s.cfg.counterWidth

/-- The bytes of a pixel in an image of `c` channels: r, g, b, and a only when `c = 4` (20_memory.md R51, R52). -/
def outputBytes (c : Byte) (px : Pixel) : List Byte :=
  if c = 4 then [px.r, px.g, px.b, px.a] else [px.r, px.g, px.b]

/-- Every channel sum of a DIFF or LUMA lies in [0, 255] (42_decoder.md R170). -/
def SumsFit (prev : Pixel) (dr dg db : Int) : Prop :=
  (0 ≤ prev.r.toNat + dr ∧ prev.r.toNat + dr ≤ 255) ∧ (0 ≤ prev.g.toNat + dg ∧ prev.g.toNat + dg ≤ 255) ∧
  (0 ≤ prev.b.toNat + db ∧ prev.b.toNat + db ≤ 255)

/-- `px` is PREV with the deltas added, each channel modulo 256, alpha unchanged (R167, R168, R170). Where the sums lie in
[0, 255] that is the sums themselves. -/
structure DeltaPixel (prev px : Pixel) (dr dg db : Int) : Prop where
  r : (px.r.toNat : Int) = (prev.r.toNat + dr) % 256
  g : (px.g.toNat : Int) = (prev.g.toNat + dg) % 256
  b : (px.b.toNat : Int) = (prev.b.toNat + db) % 256
  a : px.a = prev.a

/-- The state after an opcode of `len` bytes that produced the pixel `px` (42_decoder.md R163 to R169): the pixel at
output position PRODUCED, its cache slot, PREV, PRODUCED and DEC_PIXELS, the cursor; and nothing else: no other cache
slot, no other register of DEC, nothing of ENC, no other byte of memory. -/
structure OnePixelDone (s t : State) (out : Buffer) (px : Pixel) (len : Nat) : Prop where
  cursor : t.dec.cursor.toNat = s.dec.cursor.toNat + len
  prev : t.dec.prev = px
  produced : t.dec.produced.toNat = s.dec.produced.toNat + 1
  pixels : t.dec.pixels = t.dec.produced
  slot : cacheRead t.dec.cache (pixelHash px) = px
  otherSlots : ∀ k, k ≠ pixelHash px → cacheRead t.dec.cache k = cacheRead s.dec.cache k
  output : readBytes t.mem (out.base + s.dec.produced.toNat * s.dec.channels.toNat) s.dec.channels.toNat =
    outputBytes s.dec.channels px
  memory : SameOutside s.mem t.mem (out.base + s.dec.produced.toNat * s.dec.channels.toNat) s.dec.channels.toNat
  otherRegs : t.dec = { s.dec with
    cursor := t.dec.cursor, prev := t.dec.prev, produced := t.dec.produced, pixels := t.dec.pixels, cache := t.dec.cache }
  rest : t = { s with dec := t.dec, mem := t.mem }

/-- The state after a RUN that wrote `k` pixels (42_decoder.md R165): the pixel PREV at output positions PRODUCED to
PRODUCED + k - 1, its cache slot, PRODUCED and DEC_PIXELS, the cursor; PREV and everything else as before. -/
structure RunDone (s t : State) (out : Buffer) (k : Nat) : Prop where
  cursor : t.dec.cursor.toNat = s.dec.cursor.toNat + 1
  produced : t.dec.produced.toNat = s.dec.produced.toNat + k
  pixels : t.dec.pixels = t.dec.produced
  slot : cacheRead t.dec.cache (pixelHash s.dec.prev) = s.dec.prev
  otherSlots : ∀ j, j ≠ pixelHash s.dec.prev → cacheRead t.dec.cache j = cacheRead s.dec.cache j
  output : ∀ j, j < k →
    readBytes t.mem (out.base + (s.dec.produced.toNat + j) * s.dec.channels.toNat) s.dec.channels.toNat =
      outputBytes s.dec.channels s.dec.prev
  memory : SameOutside s.mem t.mem (out.base + s.dec.produced.toNat * s.dec.channels.toNat) (k * s.dec.channels.toNat)
  otherRegs : t.dec = { s.dec with
    cursor := t.dec.cursor, produced := t.dec.produced, pixels := t.dec.pixels, cache := t.dec.cache }
  rest : t = { s with dec := t.dec, mem := t.mem }

/-- The state after `raise Err(kind, cause, offset)` (60_exceptions.md R208): phase, error code and offset; no other
register of DEC, nothing of ENC, no byte outside DEC_OUT. DEC_OUT's content is unspecified (R209), so nothing is said
of it. -/
structure ErrorRaised (s t : State) (e : DecErr) (offset : Word64) : Prop where
  regs : t.dec = { s.dec with phase := .error, err := some e, errOffset := offset }
  memory : SameOutsideBuffer s.mem t.mem s.dec.outBuf
  rest : t = { s with dec := t.dec, mem := t.mem, freeCount := t.freeCount }

/-- The trailer is good: the end marker stands at the cursor and ends the stream, or more bytes follow it where
ALLOW_TRAILING_BYTES says so (42_decoder.md R172). -/
def TrailerGood (s : State) (base : Nat) : Prop :=
  (if s.cfg.allowTrailingBytes then s.dec.cursor.toNat + 8 ≤ s.dec.l.toNat else s.dec.l.toNat = s.dec.cursor.toNat + 8) ∧
  readBytes s.mem (base + s.dec.cursor.toNat) 8 = [0, 0, 0, 0, 0, 0, 0, 1]

/-! ## What an encoder step leaves behind -/

/-- ENC can code its next pixel: its buffers are set, a pixel is left, the run counter is legal (10_state.md R24),
ENC_OUT_LEN does not pass its 64 bits, and N fits the counter width, as it does in every state that a run reaches. -/
structure PixelReady (s : State) (out : Buffer) : Prop where
  inSet : s.enc.inBuf ≠ none
  out : s.enc.outBuf = some out
  left : s.enc.pos.toNat < s.enc.n.toNat
  run : s.enc.run.toNat ≤ 61
  room : s.enc.outLen.toNat + 6 < 2 ^ 64
  countWidth : s.enc.n.toNat < 2 ^ s.cfg.counterWidth

/-- The byte of a RUN of `n` pixels, `0xC0 + (n - 1)` (30_encoding.md R78). -/
def runByte (n : Nat) : Byte := BitVec.ofNat 8 (0xC0 + (n - 1))

/-- The RUN byte that a differing pixel flushes, if a run is pending (41_encoder.md R126). -/
def flushBytes (e : Enc) : List Byte := if e.run.toNat > 0 then [runByte e.run.toNat] else []

/-- The state after a pixel step that coded `px` by emitting `bs` and left the run counter at `run` (41_encoder.md R122,
R134, R135): the bytes at offset ENC_OUT_LEN of ENC_OUT, the length, PREV, POS and RUN; no other register of ENC except
the cache, of which the statement that uses this speaks, nothing of DEC, no other byte of memory. -/
structure PixelCoded (s t : State) (out : Buffer) (px : Pixel) (bs : List Byte) (run : Nat) : Prop where
  emitted : readBytes t.mem (out.base + s.enc.outLen.toNat) bs.length = bs
  memory : SameOutside s.mem t.mem (out.base + s.enc.outLen.toNat) bs.length
  outLen : t.enc.outLen.toNat = s.enc.outLen.toNat + bs.length
  prev : t.enc.prev = px
  run : t.enc.run.toNat = run
  pos : t.enc.pos.toNat = s.enc.pos.toNat + 1
  otherRegs : t.enc = { s.enc with
    outLen := t.enc.outLen, prev := t.enc.prev, run := t.enc.run, pos := t.enc.pos, cache := t.enc.cache }
  rest : t = { s with enc := t.enc, mem := t.mem }

/-- The cache after a miss on `px`: its slot holds it, every other slot is as before (41_encoder.md R128). -/
def CacheStored (c c' : Cache) (px : Pixel) : Prop :=
  cacheRead c' (pixelHash px) = px ∧ ∀ k, k ≠ pixelHash px → cacheRead c' k = cacheRead c k

/-- A pixel that is neither a run nor a cache hit and keeps PREV's alpha (41_encoder.md R130). -/
structure CodedByDelta (e : Enc) (px : Pixel) : Prop where
  notRun : px ≠ e.prev
  miss : cacheRead e.cache (pixelHash px) ≠ px
  alpha : px.a = e.prev.a

/-- The signed deltas of R130. -/
def deltaR (e : Enc) (px : Pixel) : Int := (px.r.toNat : Int) - e.prev.r.toNat
def deltaG (e : Enc) (px : Pixel) : Int := (px.g.toNat : Int) - e.prev.g.toNat
def deltaB (e : Enc) (px : Pixel) : Int := (px.b.toNat : Int) - e.prev.b.toNat

/-- The condition of DIFF (41_encoder.md R131). -/
def DiffApplies (e : Enc) (px : Pixel) : Prop :=
  (-2 ≤ deltaR e px ∧ deltaR e px ≤ 1) ∧ (-2 ≤ deltaG e px ∧ deltaG e px ≤ 1) ∧ (-2 ≤ deltaB e px ∧ deltaB e px ≤ 1)

/-- The ranges of LUMA (41_encoder.md R132). -/
def LumaApplies (e : Enc) (px : Pixel) : Prop :=
  (-32 ≤ deltaG e px ∧ deltaG e px ≤ 31) ∧
  (-8 ≤ deltaR e px - deltaG e px ∧ deltaR e px - deltaG e px ≤ 7) ∧
  (-8 ≤ deltaB e px - deltaG e px ∧ deltaB e px - deltaG e px ≤ 7)

/-! ## Runs -/

/-- `k` steps of the machine lead from `s` to `t`. -/
def Reaches (k : Nat) (s t : State) : Prop := Host.Core.run Sys2Proof.core k s = .next t

end Sys2Proof.Machine
end

