-- ==== Sys2Proof/Certificates/Slice0/Obligations.lean ====
section
/-!
DEFINITION. The statements for the provers. Each docstring names the rule of spec/ that the statement formalises; where a
clause rests on the model's own choice the docstring names the log entry.
-/

open Sys2Proof Sys2Proof.Machine

/-! ## Encoding -/

/-- 30_encoding.md R74 to R81, R87: no operand of a well-formed opcode is lost on the way to bytes and back, whatever
follows it in the stream. -/
def Obligations.DecodeInvertsEncode : Prop :=
  ∀ (i : Instr) (rest : List Byte), i.wf = true → decode (encode i ++ rest) = .ok (i, rest)

/-- 30_encoding.md R83, R84: what the decoder reads is well-formed, and its bytes are the bytes read. -/
def Obligations.EncodeInvertsDecode : Prop :=
  ∀ (bs : List Byte) (i : Instr) (rest : List Byte), decode bs = .ok (i, rest) → i.wf = true ∧ encode i ++ rest = bs

/-- 30_encoding.md R83, with the operands of R81: the map of first bytes. -/
def Obligations.FirstByteSelectsOpcode : Prop :=
  ∀ b x1 x2 x3 x4 : Byte,
    (b.toNat ≤ 0x3F → decode [b, x1, x2, x3, x4] = .ok (.index (b.setWidth 6), [x1, x2, x3, x4])) ∧
    (0x40 ≤ b.toNat ∧ b.toNat ≤ 0x7F → decode [b, x1, x2, x3, x4] =
      .ok (.diff ((b.toNat / 16 % 4 : Nat) - 2) ((b.toNat / 4 % 4 : Nat) - 2) ((b.toNat % 4 : Nat) - 2), [x1, x2, x3, x4])) ∧
    (0x80 ≤ b.toNat ∧ b.toNat ≤ 0xBF → decode [b, x1, x2, x3, x4] =
      .ok (.luma ((b.toNat % 64 : Nat) - 32) ((x1.toNat / 16 : Nat) - 8) ((x1.toNat % 16 : Nat) - 8), [x2, x3, x4])) ∧
    (0xC0 ≤ b.toNat ∧ b.toNat ≤ 0xFD → decode [b, x1, x2, x3, x4] = .ok (.run (b.toNat % 64 + 1), [x1, x2, x3, x4])) ∧
    (b.toNat = 0xFE → decode [b, x1, x2, x3, x4] = .ok (.rgb x1 x2 x3, [x4])) ∧
    (b.toNat = 0xFF → decode [b, x1, x2, x3, x4] = .ok (.rgba x1 x2 x3 x4, []))

/-- 30_encoding.md R82: the first byte alone settles the length, 5, 4, 2 or 1, and the opcode takes exactly that many
bytes; with fewer bytes no opcode is read. -/
def Obligations.FirstByteSettlesLength : Prop :=
  ∀ (b : Byte) (rest : List Byte) (len : Nat),
    len = (if b.toNat = 0xFF then 5 else if b.toNat = 0xFE then 4 else if 0x80 ≤ b.toNat ∧ b.toNat ≤ 0xBF then 2 else 1) →
    (len ≤ rest.length + 1 → ∃ i, decode (b :: rest) = .ok (i, rest.drop (len - 1))) ∧
    (rest.length + 1 < len → ∃ m, decode (b :: rest) = .error (.truncated m))

/-- 30_encoding.md R87 and the vectors of 95_test_vectors.md: one word of each opcode, written out from the spec's
encoding. -/
def Obligations.WrittenWordsDecode : Prop :=
  decode [0xFF, 0x0A, 0x14, 0x1E, 0x80] = .ok (.rgba 10 20 30 128, []) ∧
  decode [0xFE, 0x0A, 0x14, 0x1E] = .ok (.rgb 10 20 30, []) ∧
  decode [0x35] = .ok (.index 53, []) ∧
  decode [0x4D] = .ok (.diff (-2) 1 (-1), []) ∧
  decode [0xA3, 0x76] = .ok (.luma 3 (-1) (-2), []) ∧
  decode [0xFD] = .ok (.run 62, [])

/-! ## Shared units -/

/-- 40_shared.md R100. -/
def Obligations.HashIsWeightedSum : Prop :=
  ∀ px : Pixel,
    (pixelHash px).toNat = (px.r.toNat * 3 + px.g.toNat * 5 + px.b.toNat * 7 + px.a.toNat * 11) % 64

/-- 40_shared.md R104: the slot written is the pixel's hash, and no other slot changes. -/
def Obligations.CacheWriteStoresAtHash : Prop := ∀ (c : Cache) (px : Pixel), CacheStored c (cacheWrite c px) px

/-- 40_shared.md R107: the 14 bytes of the header, big-endian. -/
def Obligations.HeaderPackBytes : Prop :=
  ∀ (w h : Word32) (c cs : Byte), headerPack w h c cs =
    [0x71, 0x6F, 0x69, 0x66,
     BitVec.ofNat 8 (w.toNat / 2 ^ 24), BitVec.ofNat 8 (w.toNat / 2 ^ 16), BitVec.ofNat 8 (w.toNat / 2 ^ 8),
     BitVec.ofNat 8 w.toNat,
     BitVec.ofNat 8 (h.toNat / 2 ^ 24), BitVec.ofNat 8 (h.toNat / 2 ^ 16), BitVec.ofNat 8 (h.toNat / 2 ^ 8),
     BitVec.ofNat 8 h.toNat, c, cs]

/-- 40_shared.md R107 and R108, 20_memory.md R54: unpacking a packed header gives its fields back. -/
def Obligations.HeaderUnpackInvertsPack : Prop :=
  ∀ (m : Memory) (base : Nat) (w h : Word32) (c cs : Byte),
    readBytes m base 14 = headerPack w h c cs → readHeader m base = ⟨w, h, c, cs⟩

/-! ## The decoder's opcodes -/

/-- 42_decoder.md R163: the four literal bytes are the pixel, or the opcode is truncated. -/
def Obligations.RgbaExecutes : Prop :=
  ∀ (s : State) (r g b a : Byte),
    (∀ out, OpcodeReady s out 5 → ∃ t, exec (.rgba r g b a) s = .next t ∧ OnePixelDone s t out ⟨r, g, b, a⟩ 5) ∧
    (s.dec.bodyEnd.toNat < s.dec.cursor.toNat + 5 →
      ∃ t, exec (.rgba r g b a) s = .next t ∧ ErrorRaised s t .truncatedRgba s.dec.cursor)

/-- 42_decoder.md R164: the three literal bytes with PREV's alpha are the pixel, or the opcode is truncated. -/
def Obligations.RgbExecutes : Prop :=
  ∀ (s : State) (r g b : Byte),
    (∀ out, OpcodeReady s out 4 →
      ∃ t, exec (.rgb r g b) s = .next t ∧ OnePixelDone s t out ⟨r, g, b, s.dec.prev.a⟩ 4) ∧
    (s.dec.bodyEnd.toNat < s.dec.cursor.toNat + 4 →
      ∃ t, exec (.rgb r g b) s = .next t ∧ ErrorRaised s t .truncatedRgb s.dec.cursor)

/-- 42_decoder.md R166: the pixel in slot `k` of the cache, whether or not it hashes to `k`. -/
def Obligations.IndexExecutes : Prop :=
  ∀ (s : State) (k : Slot) (out : Buffer), OpcodeReady s out 1 →
    ∃ t, exec (.index k) s = .next t ∧ OnePixelDone s t out (cacheRead s.dec.cache k) 1

/-- 42_decoder.md R167 with R170: PREV plus the deltas; a sum outside [0, 255] wraps or is the error, as
DEC_DELTA_OVERFLOW says. -/
def Obligations.DiffExecutes : Prop :=
  ∀ (s : State) (dr dg db : Int),
    (∀ out, OpcodeReady s out 1 → s.cfg.deltaOverflow = .wrap ∨ SumsFit s.dec.prev dr dg db →
      ∃ px t, exec (.diff dr dg db) s = .next t ∧ DeltaPixel s.dec.prev px dr dg db ∧ OnePixelDone s t out px 1) ∧
    (s.cfg.deltaOverflow = .error → ¬ SumsFit s.dec.prev dr dg db →
      ∃ t, exec (.diff dr dg db) s = .next t ∧ ErrorRaised s t .deltaOverflow s.dec.cursor)

/-- 42_decoder.md R168 with R170: the red and blue deltas are the cross terms plus the green delta; the truncation check
comes first. -/
def Obligations.LumaExecutes : Prop :=
  ∀ (s : State) (dg drDg dbDg : Int),
    (∀ out, OpcodeReady s out 2 → s.cfg.deltaOverflow = .wrap ∨ SumsFit s.dec.prev (drDg + dg) dg (dbDg + dg) →
      ∃ px t, exec (.luma dg drDg dbDg) s = .next t ∧ DeltaPixel s.dec.prev px (drDg + dg) dg (dbDg + dg) ∧
        OnePixelDone s t out px 2) ∧
    (s.dec.cursor.toNat + 2 ≤ s.dec.bodyEnd.toNat → s.cfg.deltaOverflow = .error →
      ¬ SumsFit s.dec.prev (drDg + dg) dg (dbDg + dg) →
      ∃ t, exec (.luma dg drDg dbDg) s = .next t ∧ ErrorRaised s t .deltaOverflow s.dec.cursor) ∧
    (s.dec.bodyEnd.toNat < s.dec.cursor.toNat + 2 →
      ∃ t, exec (.luma dg drDg dbDg) s = .next t ∧ ErrorRaised s t .truncatedLuma s.dec.cursor)

/-- 42_decoder.md R165 with R171: PREV as often as the run says but at most as often as pixels are missing; a longer run
is the error where DEC_RUN_OVERSHOOT says so. -/
def Obligations.RunExecutes : Prop :=
  ∀ (s : State) (n : Nat),
    (∀ out, OpcodeReady s out 1 → 1 ≤ n →
      n ≤ s.dec.n.toNat - s.dec.produced.toNat ∨ s.cfg.runOvershoot = .clamp →
      ∃ t, exec (.run n) s = .next t ∧ RunDone s t out (min n (s.dec.n.toNat - s.dec.produced.toNat))) ∧
    (s.cfg.runOvershoot = .error → s.dec.n.toNat - s.dec.produced.toNat < n →
      ∃ t, exec (.run n) s = .next t ∧ ErrorRaised s t .runOvershoot s.dec.cursor)

/-- 10_state.md R20 and 60_exceptions.md R208, R214: whatever an opcode does, an error included, it changes nothing of
ENC, no parameter, no configuration register of DEC, no header result register, and not N, L or BODY_END. -/
def Obligations.OpcodesLeaveTheRestAlone : Prop :=
  ∀ (i : Instr) (s t : State), exec i s = .next t →
    t.enc = s.enc ∧ t.cfg = s.cfg ∧ t.host = s.host ∧ t.turns = s.turns ∧ t.hostData = s.hostData ∧
    t.hostHandle = s.hostHandle ∧
    t.dec = { s.dec with
      phase := t.dec.phase, err := t.dec.err, errOffset := t.dec.errOffset, pixels := t.dec.pixels, cache := t.dec.cache,
      prev := t.dec.prev, cursor := t.dec.cursor, produced := t.dec.produced }

/-! ## The decoder engine -/

/-- 42_decoder.md R160 with 40_shared.md R108 and 60_exceptions.md R206: START checks the length, then the magic, then the
channel count, then refuses what is too large, and otherwise leaves the job-start state. The refusals are of the image's own
`width * height`, whatever the counter width (00_scope.md R7). -/
def Obligations.DecStartFollowsHeader : Prop :=
  ∀ (s : State) (v : Word64), v.getLsbD 0 = true → DecMayStart s →
    (s.dec.inLen.toNat < 14 →
      ∃ t, writeReg s .decCtrl v = .next t ∧ ErrorRaised { s with dec := decStarted s.dec } t .truncatedHeader 0) ∧
    (∀ base, s.dec.inBuf = some base → 14 ≤ s.dec.inLen.toNat →
      (readBytes s.mem base 4 ≠ [0x71, 0x6F, 0x69, 0x66] →
        ∃ t, writeReg s .decCtrl v = .next t ∧ ErrorRaised { s with dec := decStarted s.dec } t .badMagic 0) ∧
      (∀ w h c cs, readBytes s.mem base 14 = headerPack w h c cs →
        (c ≠ 3 → c ≠ 4 →
          ∃ t, writeReg s .decCtrl v = .next t ∧
            ErrorRaised { s with dec := decUnpacked s.dec w h c cs } t .badChannels 12) ∧
        (c = 3 ∨ c = 4 →
          (s.cfg.maxPixels < w.toNat * h.toNat ∨ bufSize s.dec.outBuf < w.toNat * h.toNat * c.toNat →
            ∃ r, writeReg s .decCtrl v = .refused r) ∧
          (w.toNat * h.toNat ≤ s.cfg.maxPixels → w.toNat * h.toNat * c.toNat ≤ bufSize s.dec.outBuf →
            ∃ t, writeReg s .decCtrl v = .next t ∧ t = { s with dec := t.dec } ∧
              (w.toNat * h.toNat < 2 ^ s.cfg.counterWidth → t.dec.n.toNat = w.toNat * h.toNat) ∧
              t.dec.bodyEnd.toNat = max 14 (s.dec.inLen.toNat - 8) ∧
              t.dec = { decUnpacked s.dec w h c cs with
                n := t.dec.n, bodyEnd := t.dec.bodyEnd, cache := Vector.replicate 64 s.cfg.cacheInitPixel,
                prev := s.cfg.prevInitPixel, produced := 0, cursor := 14 }))))

/-- 42_decoder.md R161: DEC's step runs the opcode that the bytes before BODY_END hold at the cursor. Around `exec` the
step only takes the turn. -/
def Obligations.StepRunsDecodedOpcode : Prop :=
  ∀ (s : State) (base k : Nat) (i : Instr) (rest : List Byte),
    nextAgent s = some .dec → s.dec.phase = .busy → s.dec.produced.toNat < s.dec.n.toNat → s.dec.inBuf = some base →
    k ≤ s.dec.bodyEnd.toNat - s.dec.cursor.toNat →
    decode (readBytes s.mem (base + s.dec.cursor.toNat) k) = .ok (i, rest) →
    step s = exec i { s with turns := s.turns.tail }

/-- 60_exceptions.md R203: an opcode whose first byte lies before BODY_END and whose last byte does not is the truncation
error of that opcode, at its first byte. -/
def Obligations.TruncatedFetchRaises : Prop :=
  ∀ (s : State) (base : Nat) (m : String),
    s.dec.phase = .busy → s.dec.produced.toNat < s.dec.n.toNat → s.dec.inBuf = some base →
    s.dec.cursor.toNat < s.dec.bodyEnd.toNat →
    decode (readBytes s.mem (base + s.dec.cursor.toNat) (s.dec.bodyEnd.toNat - s.dec.cursor.toNat)) = .error (.truncated m) →
    ∃ t e, decAct s = .next t ∧ ErrorRaised s t e s.dec.cursor ∧
      ((m = "RGBA" ∧ e = .truncatedRgba) ∨ (m = "RGB" ∧ e = .truncatedRgb) ∨ (m = "LUMA" ∧ e = .truncatedLuma))

/-- 42_decoder.md R162, 60_exceptions.md R204: a fetch that is due at or beyond BODY_END is the underfill error. -/
def Obligations.UnderfilledOutputRaises : Prop :=
  ∀ s : State, s.dec.phase = .busy → s.dec.produced.toNat < s.dec.n.toNat → s.dec.bodyEnd.toNat ≤ s.dec.cursor.toNat →
    ∃ t, decAct s = .next t ∧ ErrorRaised s t .underfilled s.dec.cursor

/-- 42_decoder.md R172, R173: the trailer step ends the job in DONE, and only the phase changes, or raises
BAD_END_MARKER at the cursor. -/
def Obligations.TrailerChecked : Prop :=
  ∀ (s : State) (base : Nat), s.dec.phase = .busy → s.dec.produced = s.dec.n → s.dec.inBuf = some base →
    (TrailerGood s base → decAct s = .next { s with dec := { s.dec with phase := .done } }) ∧
    (¬ TrailerGood s base → ∃ t, decAct s = .next t ∧ ErrorRaised s t .badEndMarker s.dec.cursor)

/-- 60_exceptions.md R201 with 10_state.md R38: DEC_STATUS after each error. -/
def Obligations.ErrorCodesReported : Prop :=
  ∀ (s t : State) (e : DecErr) (off : Word64), ErrorRaised s t e off →
    t.dec.errOffset = off ∧
    (decStatus t).toNat = match e with
      | .badMagic => 0x114
      | .badChannels => 0x214
      | .badEndMarker => 0x314
      | .deltaOverflow => 0x414
      | .runOvershoot => 0x514
      | .truncatedHeader => 0x124
      | .truncatedRgba => 0x224
      | .truncatedRgb => 0x324
      | .truncatedLuma => 0x424
      | .underfilled => 0x034

/-- 10_state.md R35, R38: the status registers as functions of the phases when no error is recorded. -/
def Obligations.StatusFollowsPhase : Prop :=
  ∀ s : State,
    (encStatus s).toNat = (match s.enc.phase with | .idle => 0 | .busy => 1 | .done => 2) ∧
    (s.dec.err = none →
      (decStatus s).toNat = match s.dec.phase with | .idle => 0 | .busy => 1 | .done => 2 | .error => 4)

/-- 42_decoder.md R176, R175: an opcode step that does not end the job advances the cursor by 1, 2, 4 or 5, never past
BODY_END, and writes at least one pixel, never more than are missing. -/
def Obligations.OpcodeStepProgresses : Prop :=
  ∀ s t : State, Inv s → s.dec.phase = .busy → s.dec.produced.toNat < s.dec.n.toNat → decAct s = .next t →
    t.dec.phase = .busy →
    (∃ len, (len = 1 ∨ len = 2 ∨ len = 4 ∨ len = 5) ∧ t.dec.cursor.toNat = s.dec.cursor.toNat + len) ∧
    t.dec.cursor.toNat ≤ s.dec.bodyEnd.toNat ∧
    s.dec.produced.toNat < t.dec.produced.toNat ∧ t.dec.produced.toNat ≤ s.dec.n.toNat

/-- 42_decoder.md R176, 70_reset_and_hazards.md R242: a decode job ends within one step more than the opcodes it can still
have, whatever the stream holds. That DEC moves where no turn is listed is log entry 2. -/
def Obligations.DecodeJobEnds : Prop :=
  ∀ s : State, Inv s → s.turns = [] → s.dec.phase = .busy →
    ∃ k t, k ≤ min (s.dec.n.toNat - s.dec.produced.toNat) (s.dec.bodyEnd.toNat - s.dec.cursor.toNat) + 1 ∧
      Reaches k s t ∧ (t.dec.phase = .done ∨ t.dec.phase = .error)

/-- 20_memory.md R61, R59 and 42_decoder.md R161: a step of DEC depends on nothing but DEC's registers, the parameters and
the bytes of DEC_IN: where two states agree on those, DEC ends the step alike in both. -/
def Obligations.DecodeStepReadsOnlyItsStream : Prop :=
  ∀ s s' t : State, Inv s → s.dec.phase = .busy → s'.dec = s.dec → s'.cfg = s.cfg →
    (∀ a, covers (decInBuffer s.dec) a = true → readByte s'.mem a = readByte s.mem a) →
    decAct s = .next t → ∃ t', decAct s' = .next t' ∧ t'.dec = t.dec

/-- 70_reset_and_hazards.md R230, 10_state.md R41: a decode job that starts does not depend on the datapath state that
power-on or an earlier job left. -/
def Obligations.DecStartForgetsOldJob : Prop :=
  ∀ (s t : State) (v : Word64) (cache : Cache) (prev : Pixel) (cursor produced n l bodyEnd : Word64),
    v.getLsbD 0 = true → writeReg s .decCtrl v = .next t → t.dec.phase = .busy →
    writeReg { s with dec := { s.dec with
      cache := cache, prev := prev, cursor := cursor, produced := produced, n := n, l := l, bodyEnd := bodyEnd } } .decCtrl v =
      .next t

/-! ## The encoder engine -/

/-- 41_encoder.md R121: the pixel ENC fetches. -/
def Obligations.FetchPixelReadsBuffer : Prop :=
  ∀ (s : State) (b : Buffer) (i : Nat), s.enc.inBuf = some b →
    (s.enc.channels = 4 → fetchPixel s i =
      ⟨readByte s.mem (b.base + i * 4), readByte s.mem (b.base + i * 4 + 1), readByte s.mem (b.base + i * 4 + 2),
       readByte s.mem (b.base + i * 4 + 3)⟩) ∧
    (s.enc.channels = 3 → fetchPixel s i =
      ⟨readByte s.mem (b.base + i * 3), readByte s.mem (b.base + i * 3 + 1), readByte s.mem (b.base + i * 3 + 2), 255⟩)

/-- 41_encoder.md R120 with 60_exceptions.md R211: START with a legal configuration emits the header and leaves the
job-start state; with any other it is refused. -/
def Obligations.EncStartFollowsConfiguration : Prop :=
  ∀ (s : State) (v : Word64), v.getLsbD 0 = true → EncMayStart s →
    (EncAdmitted s → ∃ t out, writeReg s .encCtrl v = .next t ∧ s.enc.outBuf = some out ∧
      readBytes t.mem out.base 14 = headerPack s.enc.width s.enc.height s.enc.channels s.enc.colorspace ∧
      SameOutside s.mem t.mem out.base 14 ∧ t = { s with enc := t.enc, mem := t.mem } ∧
      (s.enc.width.toNat * s.enc.height.toNat < 2 ^ s.cfg.counterWidth →
        t.enc.n.toNat = s.enc.width.toNat * s.enc.height.toNat) ∧
      t.enc = { s.enc with
        phase := .busy, outLen := 14, cache := Vector.replicate 64 s.cfg.cacheInitPixel, prev := s.cfg.prevInitPixel,
        run := 0, pos := 0, n := t.enc.n }) ∧
    (¬ EncAdmitted s → ∃ r, writeReg s .encCtrl v = .refused r)

/-- 41_encoder.md R123: a pixel equal to PREV that neither fills the run nor ends the image emits nothing; the cache is
not touched. -/
def Obligations.RunPixelEmitsNothing : Prop :=
  ∀ (s : State) (out : Buffer), s.enc.phase = .busy → PixelReady s out → encPixel s = s.enc.prev →
    s.enc.run.toNat + 1 ≠ 62 → s.enc.pos.toNat + 1 ≠ s.enc.n.toNat →
    ∃ t, encAct s = .next t ∧ PixelCoded s t out (encPixel s) [] (s.enc.run.toNat + 1) ∧ t.enc.cache = s.enc.cache

/-- 41_encoder.md R124, R125: at the cap of 62 or at the last pixel the run is emitted, once, and the counter is 0. -/
def Obligations.RunEmittedAtCapOrEnd : Prop :=
  ∀ (s : State) (out : Buffer), s.enc.phase = .busy → PixelReady s out → encPixel s = s.enc.prev →
    s.enc.run.toNat + 1 = 62 ∨ s.enc.pos.toNat + 1 = s.enc.n.toNat →
    ∃ t, encAct s = .next t ∧ PixelCoded s t out (encPixel s) [runByte (s.enc.run.toNat + 1)] 0 ∧
      t.enc.cache = s.enc.cache

/-- 41_encoder.md R126, R127: a pixel that its cache slot holds is INDEX, after any pending run; the cache is not
written. -/
def Obligations.IndexEmittedOnHit : Prop :=
  ∀ (s : State) (out : Buffer), s.enc.phase = .busy → PixelReady s out → encPixel s ≠ s.enc.prev →
    cacheRead s.enc.cache (pixelHash (encPixel s)) = encPixel s →
    ∃ t, encAct s = .next t ∧
      PixelCoded s t out (encPixel s) (flushBytes s.enc ++ [(pixelHash (encPixel s)).setWidth 8]) 0 ∧
      t.enc.cache = s.enc.cache

/-- 41_encoder.md R126, R128, R129: a missed pixel whose alpha differs from PREV's is stored and emitted as RGBA. -/
def Obligations.RgbaEmittedOnAlphaChange : Prop :=
  ∀ (s : State) (out : Buffer), s.enc.phase = .busy → PixelReady s out →
    cacheRead s.enc.cache (pixelHash (encPixel s)) ≠ encPixel s → (encPixel s).a ≠ s.enc.prev.a →
    ∃ t, encAct s = .next t ∧
      PixelCoded s t out (encPixel s)
        (flushBytes s.enc ++ [0xFF, (encPixel s).r, (encPixel s).g, (encPixel s).b, (encPixel s).a]) 0 ∧
      CacheStored s.enc.cache t.enc.cache (encPixel s)

/-- 41_encoder.md R126, R128, R130, R131: with all three deltas in [-2, 1] the pixel is stored and emitted as DIFF. -/
def Obligations.DiffEmittedOnSmallDeltas : Prop :=
  ∀ (s : State) (out : Buffer), s.enc.phase = .busy → PixelReady s out → CodedByDelta s.enc (encPixel s) →
    DiffApplies s.enc (encPixel s) →
    ∃ t b, encAct s = .next t ∧
      (b.toNat : Int) = 0x40 + (deltaR s.enc (encPixel s) + 2) * 16 + (deltaG s.enc (encPixel s) + 2) * 4 +
        (deltaB s.enc (encPixel s) + 2) ∧
      PixelCoded s t out (encPixel s) (flushBytes s.enc ++ [b]) 0 ∧ CacheStored s.enc.cache t.enc.cache (encPixel s)

/-- 41_encoder.md R126, R128, R130, R132: deltas outside DIFF and inside LUMA's ranges: the pixel is stored and emitted as
LUMA. -/
def Obligations.LumaEmittedOnLumaDeltas : Prop :=
  ∀ (s : State) (out : Buffer), s.enc.phase = .busy → PixelReady s out → CodedByDelta s.enc (encPixel s) →
    ¬ DiffApplies s.enc (encPixel s) → LumaApplies s.enc (encPixel s) →
    ∃ t b b2, encAct s = .next t ∧
      (b.toNat : Int) = 0x80 + (deltaG s.enc (encPixel s) + 32) ∧
      (b2.toNat : Int) = (deltaR s.enc (encPixel s) - deltaG s.enc (encPixel s) + 8) * 16 +
        (deltaB s.enc (encPixel s) - deltaG s.enc (encPixel s) + 8) ∧
      PixelCoded s t out (encPixel s) (flushBytes s.enc ++ [b, b2]) 0 ∧
      CacheStored s.enc.cache t.enc.cache (encPixel s)

/-- 41_encoder.md R126, R128, R130, R133: deltas outside both ranges: the pixel is stored and emitted as RGB. The deltas do
not wrap. -/
def Obligations.RgbEmittedOtherwise : Prop :=
  ∀ (s : State) (out : Buffer), s.enc.phase = .busy → PixelReady s out → CodedByDelta s.enc (encPixel s) →
    ¬ DiffApplies s.enc (encPixel s) → ¬ LumaApplies s.enc (encPixel s) →
    ∃ t, encAct s = .next t ∧
      PixelCoded s t out (encPixel s) (flushBytes s.enc ++ [0xFE, (encPixel s).r, (encPixel s).g, (encPixel s).b]) 0 ∧
      CacheStored s.enc.cache t.enc.cache (encPixel s)

/-- 41_encoder.md R136: the finish step emits any pending run and the end marker and sets DONE; nothing else changes. -/
def Obligations.EncodeFinishAppendsMarker : Prop :=
  ∀ (s : State) (out : Buffer), s.enc.phase = .busy → s.enc.pos = s.enc.n → s.enc.outBuf = some out →
    s.enc.run.toNat ≤ 61 → s.enc.outLen.toNat + 9 < 2 ^ 64 →
    ∃ t bs, encAct s = .next t ∧ bs = flushBytes s.enc ++ [0, 0, 0, 0, 0, 0, 0, 1] ∧
      readBytes t.mem (out.base + s.enc.outLen.toNat) bs.length = bs ∧
      SameOutside s.mem t.mem (out.base + s.enc.outLen.toNat) bs.length ∧
      t.enc.outLen.toNat = s.enc.outLen.toNat + bs.length ∧
      t.enc = { s.enc with phase := .done, run := 0, outLen := t.enc.outLen } ∧ t = { s with enc := t.enc, mem := t.mem }

/-- 41_encoder.md R137: an image of zero pixels is start then finish, and its stream is the 22 bytes of header and end
marker. -/
def Obligations.ZeroPixelImageIs22Bytes : Prop :=
  ∀ (s : State) (v : Word64), v.getLsbD 0 = true → EncMayStart s → EncAdmitted s →
    s.enc.width.toNat * s.enc.height.toNat = 0 →
    ∃ t u out, writeReg s .encCtrl v = .next t ∧ encAct t = .next u ∧ s.enc.outBuf = some out ∧
      u.enc.phase = .done ∧ u.enc.outLen = 22 ∧
      readBytes u.mem out.base 22 =
        headerPack s.enc.width s.enc.height s.enc.channels s.enc.colorspace ++ [0, 0, 0, 0, 0, 0, 0, 1]

/-- 41_encoder.md R138: a pixel step emits at most 6 bytes, and none exactly when the pixel extends a run that is not
emitted. -/
def Obligations.PixelStepEmitsAtMostSixBytes : Prop :=
  ∀ (e : Enc) (px : Pixel) (last : Bool),
    ((planPixel e px last).opcodes.flatMap encode).length ≤ 6 ∧
    (((planPixel e px last).opcodes.flatMap encode).length = 0 ↔ px = e.prev ∧ e.run.toNat + 1 ≠ 62 ∧ last = false)

/-- 30_encoding.md R86: with a legal run counter every opcode that a pixel step emits is well-formed; a RUN among them has
a length of 1 to 62. -/
def Obligations.EmittedOpcodesAreWellFormed : Prop :=
  ∀ (e : Enc) (px : Pixel) (last : Bool), e.run.toNat ≤ 61 → ∀ i ∈ (planPixel e px last).opcodes, i.wf = true

/-- 41_encoder.md R139: a pixel whose alpha differs from PREV's is, after any pending run, INDEX where the cache slot holds
it and RGBA otherwise; where the alphas agree no RGBA is emitted. -/
def Obligations.AlphaChangeIsIndexOrRgba : Prop :=
  ∀ (e : Enc) (px : Pixel) (last : Bool),
    (px.a ≠ e.prev.a → (planPixel e px last).opcodes = pendingRun e ++
      [if cacheRead e.cache (pixelHash px) = px then .index (pixelHash px) else .rgba px.r px.g px.b px.a]) ∧
    (px.a = e.prev.a → ∀ i ∈ (planPixel e px last).opcodes, ∀ r g b a, i ≠ .rgba r g b a)

/-- 41_encoder.md R140, 20_memory.md R50: a step of ENC depends on nothing but ENC's registers, the counter width and the
bytes of ENC_IN, and it emits the same bytes wherever those agree. -/
def Obligations.EncodeStepReadsOnlyItsPixels : Prop :=
  ∀ s s' t : State, Inv s → s.enc.phase = .busy → s'.enc = s.enc → s'.cfg.counterWidth = s.cfg.counterWidth →
    (∀ a, covers s.enc.inBuf a = true → readByte s'.mem a = readByte s.mem a) →
    encAct s = .next t →
    ∃ t' bs, encAct s' = .next t' ∧ t'.enc = t.enc ∧
      t.mem = writeBytes s.mem (bufBase s.enc.outBuf + s.enc.outLen.toNat) bs ∧
      t'.mem = writeBytes s'.mem (bufBase s.enc.outBuf + s.enc.outLen.toNat) bs

/-- 70_reset_and_hazards.md R242: from any point of an encode job the rest takes one step per pixel left and the finish
step. That ENC moves where no turn is listed and DEC is not BUSY is log entry 2. -/
def Obligations.EncodeJobTakesOneStepPerPixel : Prop :=
  ∀ s : State, Inv s → s.turns = [] → s.enc.phase = .busy → s.dec.phase ≠ .busy →
    ∃ t, Reaches (s.enc.n.toNat - s.enc.pos.toNat + 1) s t ∧ t.enc.phase = .done

/-! ## Encoder and decoder together -/

/-- 41_encoder.md R141, 40_shared.md R111: the opcode selected for a pixel that differs from PREV, executed by a decoder
with the same PREV and the same cache, yields that pixel and the encoder's cache, under either overflow policy. -/
def Obligations.ExecutionInvertsSelection : Prop :=
  ∀ (s : State) (out : Buffer) (px : Pixel), px ≠ s.dec.prev →
    OpcodeReady s out (encode (selectOpcode s.dec.cache s.dec.prev px).1).length →
    ∃ t, exec (selectOpcode s.dec.cache s.dec.prev px).1 s = .next t ∧
      t.dec.prev = px ∧ t.dec.cache = (selectOpcode s.dec.cache s.dec.prev px).2 ∧
      t.dec.produced.toNat = s.dec.produced.toNat + 1 ∧
      t.dec.cursor.toNat = s.dec.cursor.toNat + (encode (selectOpcode s.dec.cache s.dec.prev px).1).length

/-- 41_encoder.md R141: the contract. An encode job that the model admits ends in DONE after N + 2 steps, and a decode job
on its output ends in DONE with the same header fields and the same pixel bytes, for every image, whatever the parameters
are, provided counters have the 64 bits of 10_state.md R27, the two initial pixels are equal or hash to different slots
(40_shared.md R111) and ENC does not write its own input (20_memory.md R50). The order of the agents' steps is log entry
2. -/
def Obligations.DecodeOfEncodeIsIdentity : Prop :=
  ∀ (s : State) (inb outb dout : Buffer),
    64 ≤ s.cfg.counterWidth → EncMayStart s → EncAdmitted s → s.dec.phase ≠ .busy → s.turns = [] →
    s.host = [.writeReg .encCtrl 1] →
    s.enc.inBuf = some inb → s.enc.outBuf = some outb → overlap (some inb) (some outb) = false →
    s.dec.inBuf = some outb.base → s.dec.outBuf = some dout →
    s.enc.width.toNat * s.enc.height.toNat * s.enc.channels.toNat ≤ dout.size →
    overlap (some dout) (some inb) = false → overlap (some dout) (some outb) = false →
    22 + 5 * (s.enc.width.toNat * s.enc.height.toNat) < 2 ^ 64 →
    s.cfg.cacheInitPixel = s.cfg.prevInitPixel ∨ pixelHash s.cfg.cacheInitPixel ≠ pixelHash s.cfg.prevInitPixel →
    ∃ t, Reaches (s.enc.width.toNat * s.enc.height.toNat + 2) s t ∧ t.enc.phase = .done ∧
      ∃ k u, Reaches k { t with host := [.writeReg .decInLen t.enc.outLen, .writeReg .decCtrl 1] } u ∧
        u.dec.phase = .done ∧ u.dec.width = s.enc.width ∧ u.dec.height = s.enc.height ∧
        u.dec.channels = s.enc.channels ∧ u.dec.colorspace = s.enc.colorspace ∧
        ∀ j, j < s.enc.width.toNat * s.enc.height.toNat * s.enc.channels.toNat →
          readByte u.mem (dout.base + j) = readByte s.mem (inb.base + j)

/-! ## The host, the whole machine -/

/-- 60_exceptions.md R216, row 1: a register or handle write, START among them, while that engine is BUSY is refused. -/
def Obligations.BusyEngineRefusesWrites : Prop :=
  ∀ (s : State) (v : Word64) (buf : Buffer),
    (s.enc.phase = .busy → (∀ r, regEngine r = .enc → writeReg s r v = .refused (.writeWhileBusy .enc)) ∧
      (∀ b, bufEngine b = .enc → setBuffer s b buf = .refused (.writeWhileBusy .enc))) ∧
    (s.dec.phase = .busy → (∀ r, regEngine r = .dec → writeReg s r v = .refused (.writeWhileBusy .dec)) ∧
      (∀ b, bufEngine b = .dec → setBuffer s b buf = .refused (.writeWhileBusy .dec)))

/-- 20_memory.md R60, 60_exceptions.md R216, row 4: the host may not write a busy engine's input nor touch its output, and
no engine starts while the other is BUSY and their buffers overlap. That such a START is refused before the header or the
configuration is looked at is the model's inference (log entry 10). -/
def Obligations.BusyBuffersAreTheEngines : Prop :=
  ∀ (s : State) (a : Nat) (v : Byte) (w : Word64),
    (s.enc.phase = .busy → covers s.enc.inBuf a = true ∨ covers s.enc.outBuf a = true →
      ∃ r, hostDo (.writeMem a v) s = .refused r) ∧
    (s.dec.phase = .busy → covers (decInBuffer s.dec) a = true ∨ covers s.dec.outBuf a = true →
      ∃ r, hostDo (.writeMem a v) s = .refused r) ∧
    (s.enc.phase = .busy → covers s.enc.outBuf a = true → ∃ r, hostDo (.readMem a) s = .refused r) ∧
    (s.dec.phase = .busy → covers s.dec.outBuf a = true → ∃ r, hostDo (.readMem a) s = .refused r) ∧
    (w.getLsbD 0 = true → s.enc.phase = .busy → enginesOverlap s = true → ∃ r, writeReg s .decCtrl w = .refused r) ∧
    (w.getLsbD 0 = true → s.dec.phase = .busy → enginesOverlap s = true → ∃ r, writeReg s .encCtrl w = .refused r)

/-- 10_state.md R34 to R40: a configuration write to an engine that is not BUSY sets that register and nothing else, and
what each of the sixteen registers reads. The model's choices, of log entry 11: the value is cut to the register's width, a
read is zero-extended, and a host-read-only register ignores a write. -/
def Obligations.RegisterAccess : Prop :=
  ∀ (s : State) (v : Word64),
    (s.enc.phase ≠ .busy →
      writeReg s .encWidth v = .next { s with enc := { s.enc with width := v.setWidth 32 } } ∧
      writeReg s .encHeight v = .next { s with enc := { s.enc with height := v.setWidth 32 } } ∧
      writeReg s .encChannels v = .next { s with enc := { s.enc with channels := v.setWidth 8 } } ∧
      writeReg s .encColorspace v = .next { s with enc := { s.enc with colorspace := v.setWidth 8 } } ∧
      (v.getLsbD 0 = false → writeReg s .encCtrl v = .next s) ∧
      writeReg s .encStatus v = .next s ∧ writeReg s .encOutLen v = .next s) ∧
    (s.dec.phase ≠ .busy →
      writeReg s .decInLen v = .next { s with dec := { s.dec with inLen := v } } ∧
      (v.getLsbD 0 = false → writeReg s .decCtrl v = .next s) ∧
      writeReg s .decStatus v = .next s ∧ writeReg s .decErrOffset v = .next s ∧ writeReg s .decPixels v = .next s ∧
      writeReg s .decWidth v = .next s ∧ writeReg s .decHeight v = .next s ∧ writeReg s .decChannels v = .next s ∧
      writeReg s .decColorspace v = .next s) ∧
    (regValue s .encWidth).toNat = s.enc.width.toNat ∧ (regValue s .encHeight).toNat = s.enc.height.toNat ∧
    (regValue s .encChannels).toNat = s.enc.channels.toNat ∧
    (regValue s .encColorspace).toNat = s.enc.colorspace.toNat ∧
    regValue s .encCtrl = 0 ∧ (regValue s .encStatus).toNat = (encStatus s).toNat ∧
    regValue s .encOutLen = s.enc.outLen ∧
    regValue s .decInLen = s.dec.inLen ∧ regValue s .decCtrl = 0 ∧
    (regValue s .decStatus).toNat = (decStatus s).toNat ∧ regValue s .decErrOffset = s.dec.errOffset ∧
    (regValue s .decWidth).toNat = s.dec.width.toNat ∧ (regValue s .decHeight).toNat = s.dec.height.toNat ∧
    (regValue s .decChannels).toNat = s.dec.channels.toNat ∧
    (regValue s .decColorspace).toNat = s.dec.colorspace.toNat ∧ regValue s .decPixels = s.dec.pixels

/-- 10_state.md R34, R37: a handle write to an engine that is not BUSY stores the handle and changes nothing else. That
DEC_IN keeps the base only is the model's choice (log entry 11): its size is DEC_IN_LEN (20_memory.md R50). -/
def Obligations.HandleWritesStoreBuffers : Prop :=
  ∀ (s : State) (buf : Buffer),
    (s.enc.phase ≠ .busy →
      setBuffer s .encIn buf = .next { s with enc := { s.enc with inBuf := some buf } } ∧
      setBuffer s .encOut buf = .next { s with enc := { s.enc with outBuf := some buf } }) ∧
    (s.dec.phase ≠ .busy →
      setBuffer s .decIn buf = .next { s with dec := { s.dec with inBuf := some buf.base } } ∧
      setBuffer s .decOut buf = .next { s with dec := { s.dec with outBuf := some buf } })

/-- 70_reset_and_hazards.md R233, 20_memory.md R57, R60: outside the buffers of BUSY engines the host writes one byte and no
other; outside their output buffers it reads a byte, and anywhere a register or a handle, without any effect but on what it
read (`hostData`, `hostHandle`, log entry 7). That registers and handles may be read while their engine is BUSY is the
model's choice (log entry 11): 10_state.md section 3 gives the host access while it is not BUSY. -/
def Obligations.HostMovesBytes : Prop :=
  ∀ (s : State) (a : Nat) (v : Byte),
    ((s.enc.phase = .busy → covers s.enc.inBuf a = false ∧ covers s.enc.outBuf a = false) →
      (s.dec.phase = .busy → covers (decInBuffer s.dec) a = false ∧ covers s.dec.outBuf a = false) →
      ∃ t, hostDo (.writeMem a v) s = .next t ∧ t = { s with mem := t.mem } ∧ readByte t.mem a = v ∧
        ∀ b, b ≠ a → readByte t.mem b = readByte s.mem b) ∧
    ((s.enc.phase = .busy → covers s.enc.outBuf a = false) → (s.dec.phase = .busy → covers s.dec.outBuf a = false) →
      hostDo (.readMem a) s = .next { s with hostData := (readByte s.mem a).setWidth 64 }) ∧
    (∀ r, hostDo (.readReg r) s = .next { s with hostData := regValue s r }) ∧
    ∀ b, hostDo (.readBuffer b) s = .next { s with hostHandle := bufValue s b }

/-- 20_memory.md R58: a bus access is the access to the register that REG_MAP places at the address. The model's choices, of
log entry 6: the first entry of an address counts; a handle takes and reads as a free value, because the spec gives it no
bus form; where no entry lists the address a write changes nothing and a read returns a free value. That a register of a BUSY engine may
be read is log entry 11. -/
def Obligations.BusAccessReachesRegisters : Prop :=
  ∀ (s : State) (a : Nat) (w : Word64),
    (∀ l1 l2 hr, s.cfg.regMap = l1 ++ (hr, a) :: l2 → (∀ e ∈ l1, e.2 ≠ a) →
      (∀ r, hr = .num r →
        hostDo (.busWrite a w) s = hostDo (.writeReg r w) s ∧ hostDo (.busRead a) s = hostDo (.readReg r) s) ∧
      (∀ b, hr = .handle b →
        hostDo (.busWrite a w) s = hostDo (.setBuffer b (Config.handleOfWord w)) s ∧
        hostDo (.busRead a) s = .next { s with hostData := Config.wordOfHandle (bufValue s b) })) ∧
    ((∀ e ∈ s.cfg.regMap, e.2 ≠ a) →
      hostDo (.busWrite a w) s = .next s ∧
      hostDo (.busRead a) s =
        .next { s with hostData := Config.unmappedBusWord s.freeCount a, freeCount := s.freeCount + 1 })

/-- Where an access through a handle that holds no buffer stops, which is the model's own (log entry 9): START with DEC_IN
unset and a header to read, an opcode or trailer step that must read DEC_IN, an opcode that writes a pixel with DEC_OUT
unset, and ENC's steps with a buffer unset. -/
def Obligations.UnsetHandlesFault : Prop :=
  ∀ (s : State) (v : Word64),
    (v.getLsbD 0 = true → DecMayStart s → s.dec.inBuf = none → 14 ≤ s.dec.inLen.toNat →
      writeReg s .decCtrl v = .fault (.noBuffer .decIn)) ∧
    (s.dec.phase = .busy → s.dec.inBuf = none → s.dec.produced.toNat < s.dec.n.toNat →
      s.dec.cursor.toNat < s.dec.bodyEnd.toNat → decAct s = .fault (.noBuffer .decIn)) ∧
    (s.dec.phase = .busy → s.dec.inBuf = none → s.dec.produced = s.dec.n →
      s.dec.l.toNat = s.dec.cursor.toNat + 8 → decAct s = .fault (.noBuffer .decIn)) ∧
    (s.dec.outBuf = none → ∀ i, exec i s = .fault (.noBuffer .decOut) ∨
      ∃ t e, exec i s = .next t ∧ ErrorRaised s t e s.dec.cursor) ∧
    (s.enc.phase = .busy → s.enc.pos.toNat < s.enc.n.toNat → s.enc.inBuf = none →
      encAct s = .fault (.noBuffer .encIn)) ∧
    (s.enc.phase = .busy → s.enc.inBuf ≠ none → s.enc.outBuf = none → encAct s = .fault (.noBuffer .encOut))

/-- 10_state.md R41, 70_reset_and_hazards.md R230: after a power-on reset every register of R34 to R40 reads 0, the phases
are IDLE and no handle is set. The clause about the datapath state is absent because it is unspecified. That memory and
parameters stay as they are, and that the reset may come while an engine is BUSY and then ends its job, are the model's choices
(log entry 3). -/
def Obligations.PowerOnClearsRegisters : Prop :=
  ∀ (s : State) (r : Reg), ∃ t, hostDo .powerOn s = .next t ∧ regValue t r = 0 ∧
    t.enc.phase = .idle ∧ t.dec.phase = .idle ∧ t.enc.inBuf = none ∧ t.enc.outBuf = none ∧ t.dec.inBuf = none ∧
    t.dec.outBuf = none ∧ t.mem = s.mem ∧ t.cfg = s.cfg ∧ regValue State.reset r = 0

/-- 70_reset_and_hazards.md R232, 60_exceptions.md R210: an engine that is not BUSY takes no step, an errored one among
them. -/
def Obligations.EngineNotBusyTakesNoStep : Prop :=
  ∀ s : State, (s.enc.phase ≠ .busy → encAct s = .next s) ∧ (s.dec.phase ≠ .busy → decAct s = .next s)

/-- 10_state.md R20, 60_exceptions.md R214: no step of one engine changes anything of the other, a parameter, or the host's
pending actions. -/
def Obligations.EnginesShareNoState : Prop :=
  ∀ s t : State,
    (encAct s = .next t → t.dec = s.dec ∧ t.cfg = s.cfg ∧ t.host = s.host ∧ t.turns = s.turns) ∧
    (decAct s = .next t → t.enc = s.enc ∧ t.cfg = s.cfg ∧ t.host = s.host ∧ t.turns = s.turns)

/-- 20_memory.md R50: in a running job an engine writes only its own output buffer. -/
def Obligations.EnginesWriteOnlyTheirOutput : Prop :=
  ∀ s t : State, Inv s →
    (encAct s = .next t → SameOutsideBuffer s.mem t.mem s.enc.outBuf) ∧
    (decAct s = .next t → SameOutsideBuffer s.mem t.mem s.dec.outBuf)

/-- The invariant holds after reset (10_state.md R41). -/
def Obligations.ResetSatisfiesInvariant : Prop := Inv State.reset

/-- 10_state.md R24, R25, R27, R29, R30, R31, R38, 20_memory.md R60, R63: every step of the machine, of whichever agent,
keeps the invariant. -/
def Obligations.StepKeepsInvariant : Prop := ∀ s t : State, Inv s → step s = .next t → Inv t

/-- 00_scope.md R7, 10_state.md R27: whatever the counter width is, no step leaves a pixel counter, position or cursor
wider. That a value which does not fit is cut is the model's choice (log entry 5). -/
def Obligations.CountersKeepTheirWidth : Prop := ∀ s t : State, CountersFit s → step s = .next t → CountersFit t

/-- 42_decoder.md R176, 60_exceptions.md R200, R211: in a state that meets the invariant an engine's step never stops the
machine: it answers a next state, an error being one. -/
def Obligations.EngineStepsAlwaysComplete : Prop :=
  ∀ s : State, Inv s → (∃ t, encAct s = .next t) ∧ (∃ t, decAct s = .next t)
end

