-- ==== Sys2Proof/Laws/Codec.lean ====
section
/-!
SUPPORT. Small facts about the decoder and the encoder of opcodes: lengths, and that five bytes always hold an opcode.
-/

namespace Sys2Proof

@[simp] theorem encode_length (i : Instr) : (encode i).length = instrLength i := by
  cases i <;> rfl

theorem instrLength_pos (i : Instr) : 1 ≤ instrLength i := by
  cases i <;> simp [instrLength]

theorem instrLength_cases (i : Instr) :
    instrLength i = 1 ∨ instrLength i = 2 ∨ instrLength i = 4 ∨ instrLength i = 5 := by
  cases i <;> simp [instrLength]

/-- Five bytes always hold an opcode (30_encoding.md R83). -/
theorem decode_five (b x1 x2 x3 x4 : Byte) : ∃ i rest, decode [b, x1, x2, x3, x4] = .ok (i, rest) := by
  simp only [decode, decodeRgba, decodeRgb, decodeLuma]
  split_ifs <;> exact ⟨_, _, rfl⟩

/-! The opcode that each class of first bytes is read as (30_encoding.md R74). -/

@[simp] theorem decode_rgba (r g b a : Byte) (rest : List Byte) :
    decode (0xFF :: r :: g :: b :: a :: rest) = .ok (.rgba r g b a, rest) := rfl

@[simp] theorem decode_rgb (r g b : Byte) (rest : List Byte) :
    decode (0xFE :: r :: g :: b :: rest) = .ok (.rgb r g b, rest) := rfl

theorem decode_index {b : Byte} (h1 : b ≠ 0xFF) (h2 : b ≠ 0xFE) (ht : tagOf b = 0b00) (rest : List Byte) :
    decode (b :: rest) = .ok (.index (payloadOf b), rest) := by
  rw [decode, if_neg h1, if_neg h2, if_pos ht]

theorem decode_diff {b : Byte} (h1 : b ≠ 0xFF) (h2 : b ≠ 0xFE) (ht : tagOf b = 0b01) (rest : List Byte) :
    decode (b :: rest) = .ok (decodeDiff b, rest) := by
  rw [decode, if_neg h1, if_neg h2, if_neg (by rw [ht]; decide), if_pos ht]

theorem decode_luma {b : Byte} (h1 : b ≠ 0xFF) (h2 : b ≠ 0xFE) (ht : tagOf b = 0b10) (rest : List Byte) :
    decode (b :: rest) = decodeLuma b rest := by
  rw [decode, if_neg h1, if_neg h2, if_neg (by rw [ht]; decide), if_neg (by rw [ht]; decide), if_pos ht]

theorem decode_run {b : Byte} (h1 : b ≠ 0xFF) (h2 : b ≠ 0xFE) (ht : tagOf b = 0b11) (rest : List Byte) :
    decode (b :: rest) = .ok (decodeRun b, rest) := by
  rw [decode, if_neg h1, if_neg h2, if_neg (by rw [ht]; decide), if_neg (by rw [ht]; decide),
    if_neg (by rw [ht]; decide)]

/-- What the decoder can read, one case per opcode: the first byte's class, the operands, the bytes left. -/
theorem decode_cases {bs rest : List Byte} {i : Instr} (h : decode bs = .ok (i, rest)) :
    (∃ r g b a, i = .rgba r g b a ∧ bs = 0xFF :: r :: g :: b :: a :: rest) ∨
    (∃ r g b, i = .rgb r g b ∧ bs = 0xFE :: r :: g :: b :: rest) ∨
    (∃ b, tagOf b = 0b00 ∧ i = .index (payloadOf b) ∧ bs = b :: rest) ∨
    (∃ b, tagOf b = 0b01 ∧ i = decodeDiff b ∧ bs = b :: rest) ∨
    (∃ b b2, tagOf b = 0b10 ∧ i = .luma (unbias b 0 6 32) (unbias b2 4 4 8) (unbias b2 0 4 8) ∧ bs = b :: b2 :: rest) ∨
    (∃ b, tagOf b = 0b11 ∧ b ≠ 0xFF ∧ b ≠ 0xFE ∧ i = decodeRun b ∧ bs = b :: rest) := by
  cases bs with
  | nil => cases h
  | cons b tl =>
    rw [decode] at h
    split at h
    · next hb =>
      unfold decodeRgba at h
      split at h
      · cases h
        exact .inl ⟨_, _, _, _, rfl, by rw [hb]⟩
      · cases h
    split at h
    · next hb =>
      unfold decodeRgb at h
      split at h
      · cases h
        exact .inr (.inl ⟨_, _, _, rfl, by rw [hb]⟩)
      · cases h
    split at h
    · cases h
      exact .inr (.inr (.inl ⟨_, ‹_›, rfl, rfl⟩))
    split at h
    · cases h
      exact .inr (.inr (.inr (.inl ⟨_, ‹_›, rfl, rfl⟩)))
    split at h
    · unfold decodeLuma at h
      split at h
      · cases h
        exact .inr (.inr (.inr (.inr (.inl ⟨_, _, ‹_›, rfl, rfl⟩))))
      · cases h
    · cases h
      refine .inr (.inr (.inr (.inr (.inr ⟨_, ?_, ‹_›, ‹_›, rfl, rfl⟩))))
      have : ∀ t : BitVec 2, t ≠ 0 → t ≠ 1 → t ≠ 2 → t = 3 := by decide
      exact this _ ‹_› ‹_› ‹_›

end Sys2Proof
end

