-- ==== Sys2Proof/Laws/Memory.lean ====
section
/-!
SUPPORT. The laws of the host's memory: a read after a write, the bytes a write leaves alone, and the canonical form.
-/

namespace Sys2Proof.Machine

theorem lookupByte_writeByte (m : Memory) (a b : Nat) (v : Byte) :
    lookupByte (writeByte m a v) b = if b = a then some v else lookupByte m b := by
  induction m with
  | nil => simp [writeByte, lookupByte]
  | cons c m ih =>
    obtain ⟨d, w⟩ := c
    simp only [writeByte]
    split
    · simp only [lookupByte]
    · split
      · subst_vars
        simp only [lookupByte]
        split <;> rfl
      · simp only [lookupByte, ih]
        split
        · rw [if_neg (by omega)]
        · rfl

theorem readByte_writeByte (m : Memory) (a b : Nat) (v : Byte) :
    readByte (writeByte m a v) b = if b = a then v else readByte m b := by
  unfold readByte
  rw [lookupByte_writeByte]
  split <;> rfl

@[simp] theorem readByte_writeByte_self (m : Memory) (a : Nat) (v : Byte) : readByte (writeByte m a v) a = v := by
  simp [readByte_writeByte]

theorem readByte_writeByte_ne (m : Memory) {a b : Nat} (v : Byte) (h : b ≠ a) :
    readByte (writeByte m a v) b = readByte m b := by
  simp [readByte_writeByte, h]

/-- A write leaves every byte outside it alone. -/
theorem readByte_writeBytes_outside (vs : List Byte) (m : Memory) (a b : Nat) (h : b < a ∨ a + vs.length ≤ b) :
    readByte (writeBytes m a vs) b = readByte m b := by
  induction vs generalizing m a with
  | nil => rfl
  | cons v vs ih =>
    simp only [List.length_cons] at h
    rw [writeBytes, ih _ _ (by omega), readByte_writeByte_ne _ _ (by omega)]

/-- Byte `i` of a write reads back as it was written. -/
theorem readByte_writeBytes_inside (vs : List Byte) (m : Memory) (a i : Nat) (h : i < vs.length) :
    readByte (writeBytes m a vs) (a + i) = vs[i] := by
  induction vs generalizing m a i with
  | nil => simp at h
  | cons v vs ih =>
    rw [writeBytes]
    cases i with
    | zero => rw [readByte_writeBytes_outside _ _ _ _ (by omega)]; simp
    | succ i =>
      have := ih (writeByte m a v) (a + 1) i (by simpa using h)
      rw [show a + (i + 1) = a + 1 + i by omega, this]
      rfl

theorem readBytes_congr (m m' : Memory) (a a' n : Nat) (h : ∀ i, i < n → readByte m (a + i) = readByte m' (a' + i)) :
    readBytes m a n = readBytes m' a' n := by
  induction n generalizing a a' with
  | zero => rfl
  | succ n ih =>
    rw [readBytes, readBytes, ih (a + 1) (a' + 1)]
    · rw [show readByte m a = readByte m' a' from h 0 (by omega)]
    · intro i hi
      have := h (i + 1) (by omega)
      rwa [show a + (i + 1) = a + 1 + i by omega, show a' + (i + 1) = a' + 1 + i by omega] at this

@[simp] theorem readBytes_length (m : Memory) (a n : Nat) : (readBytes m a n).length = n := by
  induction n generalizing a with
  | zero => rfl
  | succ n ih => simp [readBytes, ih]

theorem readBytes_getElem (m : Memory) (a n i : Nat) (h : i < (readBytes m a n).length) :
    (readBytes m a n)[i] = readByte m (a + i) := by
  induction n generalizing a i with
  | zero => simp [readBytes] at h
  | succ n ih =>
    cases i with
    | zero => rfl
    | succ i =>
      simp only [readBytes, List.getElem_cons_succ]
      rw [ih]
      congr 1
      omega

/-- A write reads back whole. -/
theorem readBytes_writeBytes (vs : List Byte) (m : Memory) (a : Nat) :
    readBytes (writeBytes m a vs) a vs.length = vs := by
  apply List.ext_getElem (by simp)
  intro i h h'
  rw [readBytes_getElem, readByte_writeBytes_inside _ _ _ _ h']

/-- A write leaves every run of bytes outside it alone. -/
theorem readBytes_writeBytes_outside (vs : List Byte) (m : Memory) (a b n : Nat)
    (h : b + n ≤ a ∨ a + vs.length ≤ b) : readBytes (writeBytes m a vs) b n = readBytes m b n :=
  readBytes_congr _ _ _ _ _ fun _ hi => readByte_writeBytes_outside _ _ _ _ (by omega)

theorem writeBytes_append (vs ws : List Byte) (m : Memory) (a : Nat) :
    writeBytes m a (vs ++ ws) = writeBytes (writeBytes m a vs) (a + vs.length) ws := by
  induction vs generalizing m a with
  | nil => rfl
  | cons v vs ih =>
    simp only [List.cons_append, writeBytes, ih, List.length_cons]
    congr 1
    omega

theorem mem_writeByte {m : Memory} {a : Nat} {v : Byte} {c : Host.Cell} (h : c ∈ writeByte m a v) :
    c = (a, v) ∨ c ∈ m := by
  induction m with
  | nil => simpa [writeByte] using h
  | cons d m ih =>
    obtain ⟨b, w⟩ := d
    simp only [writeByte] at h
    split at h
    · simpa using h
    · split at h
      · rcases List.mem_cons.1 h with h | h
        · exact .inl h
        · exact .inr (List.mem_cons_of_mem _ h)
      · rcases List.mem_cons.1 h with h | h
        · exact .inr (by simp [h])
        · exact (ih h).imp_right (List.mem_cons_of_mem _)

/-- A one-byte write keeps the canonical form. -/
theorem wf_writeByte {m : Memory} (h : Memory.wf m) (a : Nat) (v : Byte) : Memory.wf (writeByte m a v) := by
  induction m with
  | nil => simp [writeByte, Memory.wf]
  | cons d m ih =>
    obtain ⟨b, w⟩ := d
    have hm : Memory.wf m := (List.pairwise_cons.1 h).2
    have hd : ∀ c ∈ m, b < c.1 := (List.pairwise_cons.1 h).1
    simp only [writeByte]
    split
    · refine List.pairwise_cons.2 ⟨fun c hc => ?_, h⟩
      rcases List.mem_cons.1 hc with rfl | hc
      · assumption
      · exact Nat.lt_trans ‹_› (hd c hc)
    · split
      · subst_vars
        exact List.pairwise_cons.2 ⟨hd, hm⟩
      · refine List.pairwise_cons.2 ⟨fun c hc => ?_, ih hm⟩
        rcases mem_writeByte hc with rfl | hc
        · show b < a
          omega
        · exact hd c hc

/-- A write keeps the canonical form. -/
theorem wf_writeBytes (vs : List Byte) {m : Memory} (h : Memory.wf m) (a : Nat) : Memory.wf (writeBytes m a vs) := by
  induction vs generalizing m a with
  | nil => exact h
  | cons v vs ih => exact ih (wf_writeByte h a v) (a + 1)

theorem reset_mem_wf : Memory.wf State.reset.mem := List.Pairwise.nil

theorem lookupByte_lt_head {m : Memory} {a b : Nat} {w : Byte} (h : Memory.wf ((b, w) :: m)) (hab : a < b) :
    lookupByte m a = none := by
  have hd := (List.pairwise_cons.1 h).1
  have hm := (List.pairwise_cons.1 h).2
  clear h
  induction m with
  | nil => rfl
  | cons c m ih =>
    have hc : b < c.1 := hd c (by simp)
    rw [lookupByte, if_neg (by omega)]
    exact ih (fun d hd' => hd d (List.mem_cons_of_mem _ hd')) (List.pairwise_cons.1 hm).2

/-- Equal memories are equal data: two memories in canonical form that hold the same byte at every address, or none,
are the same list. -/
theorem memory_ext {m m' : Memory} (h : Memory.wf m) (h' : Memory.wf m') (e : ∀ a, lookupByte m a = lookupByte m' a) :
    m = m' := by
  induction m generalizing m' with
  | nil =>
    cases m' with
    | nil => rfl
    | cons c m' => simpa [lookupByte] using e c.1
  | cons c m ih =>
    cases m' with
    | nil => simpa [lookupByte] using e c.1
    | cons c' m' =>
      obtain ⟨b, w⟩ := c
      obtain ⟨b', w'⟩ := c'
      have e1 := e b
      have e2 := e b'
      have hbb : b = b' := by
        rcases Nat.lt_trichotomy b b' with hlt | heq | hgt
        · simp [lookupByte, Nat.ne_of_lt hlt, lookupByte_lt_head h' hlt] at e1
        · exact heq
        · simp [lookupByte, Nat.ne_of_lt hgt, lookupByte_lt_head h hgt] at e2
      subst hbb
      have hw : w = w' := by simpa [lookupByte] using e1
      subst hw
      congr 1
      refine ih (List.pairwise_cons.1 h).2 (List.pairwise_cons.1 h').2 fun a => ?_
      by_cases ha : a = b
      · subst ha
        have none_of : ∀ l : Memory, Memory.wf ((a, w) :: l) → lookupByte l a = none := by
          intro l hl
          have hd := (List.pairwise_cons.1 hl).1
          clear hl
          induction l with
          | nil => rfl
          | cons c l ihl =>
            have hc : a < c.1 := hd c (by simp)
            rw [lookupByte, if_neg (by omega)]
            exact ihl fun d hd' => hd d (List.mem_cons_of_mem _ hd')
        rw [none_of m h, none_of m' h']
      · simpa [lookupByte, ha] using e a

end Sys2Proof.Machine
end

