-- ==== Sys2Proof/Laws/State.lean ====
section
/-!
SUPPORT. One lemma per field per state update, so that no later proof unfolds a record update. Where an update leaves a
whole engine alone one lemma says so for all its fields.
-/

namespace Sys2Proof.Machine

/-! ## emit -/

@[simp] theorem emit_cfg (s : State) (bs : List Byte) : (emit s bs).cfg = s.cfg := rfl
@[simp] theorem emit_enc_phase (s : State) (bs : List Byte) : (emit s bs).enc.phase = s.enc.phase := rfl
@[simp] theorem emit_enc_width (s : State) (bs : List Byte) : (emit s bs).enc.width = s.enc.width := rfl
@[simp] theorem emit_enc_height (s : State) (bs : List Byte) : (emit s bs).enc.height = s.enc.height := rfl
@[simp] theorem emit_enc_channels (s : State) (bs : List Byte) : (emit s bs).enc.channels = s.enc.channels := rfl
@[simp] theorem emit_enc_colorspace (s : State) (bs : List Byte) : (emit s bs).enc.colorspace = s.enc.colorspace := rfl
@[simp] theorem emit_enc_inBuf (s : State) (bs : List Byte) : (emit s bs).enc.inBuf = s.enc.inBuf := rfl
@[simp] theorem emit_enc_outBuf (s : State) (bs : List Byte) : (emit s bs).enc.outBuf = s.enc.outBuf := rfl
@[simp] theorem emit_enc_outLen (s : State) (bs : List Byte) : (emit s bs).enc.outLen = BitVec.ofNat 64 (s.enc.outLen.toNat + bs.length) := rfl
@[simp] theorem emit_enc_cache (s : State) (bs : List Byte) : (emit s bs).enc.cache = s.enc.cache := rfl
@[simp] theorem emit_enc_prev (s : State) (bs : List Byte) : (emit s bs).enc.prev = s.enc.prev := rfl
@[simp] theorem emit_enc_run (s : State) (bs : List Byte) : (emit s bs).enc.run = s.enc.run := rfl
@[simp] theorem emit_enc_pos (s : State) (bs : List Byte) : (emit s bs).enc.pos = s.enc.pos := rfl
@[simp] theorem emit_enc_n (s : State) (bs : List Byte) : (emit s bs).enc.n = s.enc.n := rfl
@[simp] theorem emit_dec (s : State) (bs : List Byte) : (emit s bs).dec = s.dec := rfl
@[simp] theorem emit_mem (s : State) (bs : List Byte) : (emit s bs).mem = writeBytes s.mem (bufBase s.enc.outBuf + s.enc.outLen.toNat) bs := rfl
@[simp] theorem emit_host (s : State) (bs : List Byte) : (emit s bs).host = s.host := rfl
@[simp] theorem emit_turns (s : State) (bs : List Byte) : (emit s bs).turns = s.turns := rfl
@[simp] theorem emit_hostData (s : State) (bs : List Byte) : (emit s bs).hostData = s.hostData := rfl
@[simp] theorem emit_hostHandle (s : State) (bs : List Byte) : (emit s bs).hostHandle = s.hostHandle := rfl
@[simp] theorem emit_freeCount (s : State) (bs : List Byte) : (emit s bs).freeCount = s.freeCount := rfl

/-! ## putPixel -/

@[simp] theorem putPixel_cfg (s : State) (px : Pixel) : (putPixel s px).cfg = s.cfg := rfl
@[simp] theorem putPixel_enc (s : State) (px : Pixel) : (putPixel s px).enc = s.enc := rfl
@[simp] theorem putPixel_dec_phase (s : State) (px : Pixel) : (putPixel s px).dec.phase = s.dec.phase := rfl
@[simp] theorem putPixel_dec_inBuf (s : State) (px : Pixel) : (putPixel s px).dec.inBuf = s.dec.inBuf := rfl
@[simp] theorem putPixel_dec_inLen (s : State) (px : Pixel) : (putPixel s px).dec.inLen = s.dec.inLen := rfl
@[simp] theorem putPixel_dec_outBuf (s : State) (px : Pixel) : (putPixel s px).dec.outBuf = s.dec.outBuf := rfl
@[simp] theorem putPixel_dec_err (s : State) (px : Pixel) : (putPixel s px).dec.err = s.dec.err := rfl
@[simp] theorem putPixel_dec_errOffset (s : State) (px : Pixel) : (putPixel s px).dec.errOffset = s.dec.errOffset := rfl
@[simp] theorem putPixel_dec_width (s : State) (px : Pixel) : (putPixel s px).dec.width = s.dec.width := rfl
@[simp] theorem putPixel_dec_height (s : State) (px : Pixel) : (putPixel s px).dec.height = s.dec.height := rfl
@[simp] theorem putPixel_dec_channels (s : State) (px : Pixel) : (putPixel s px).dec.channels = s.dec.channels := rfl
@[simp] theorem putPixel_dec_colorspace (s : State) (px : Pixel) : (putPixel s px).dec.colorspace = s.dec.colorspace := rfl
@[simp] theorem putPixel_dec_pixels (s : State) (px : Pixel) : (putPixel s px).dec.pixels = counter s.cfg (s.dec.produced.toNat + 1) := rfl
@[simp] theorem putPixel_dec_cache (s : State) (px : Pixel) : (putPixel s px).dec.cache = cacheWrite s.dec.cache px := rfl
@[simp] theorem putPixel_dec_prev (s : State) (px : Pixel) : (putPixel s px).dec.prev = s.dec.prev := rfl
@[simp] theorem putPixel_dec_cursor (s : State) (px : Pixel) : (putPixel s px).dec.cursor = s.dec.cursor := rfl
@[simp] theorem putPixel_dec_produced (s : State) (px : Pixel) : (putPixel s px).dec.produced = counter s.cfg (s.dec.produced.toNat + 1) := rfl
@[simp] theorem putPixel_dec_n (s : State) (px : Pixel) : (putPixel s px).dec.n = s.dec.n := rfl
@[simp] theorem putPixel_dec_l (s : State) (px : Pixel) : (putPixel s px).dec.l = s.dec.l := rfl
@[simp] theorem putPixel_dec_bodyEnd (s : State) (px : Pixel) : (putPixel s px).dec.bodyEnd = s.dec.bodyEnd := rfl
@[simp] theorem putPixel_mem (s : State) (px : Pixel) : (putPixel s px).mem = writeBytes s.mem (decPixelAddr s.dec s.dec.produced.toNat) (pixelBytes s.dec.channels px) := rfl
@[simp] theorem putPixel_host (s : State) (px : Pixel) : (putPixel s px).host = s.host := rfl
@[simp] theorem putPixel_turns (s : State) (px : Pixel) : (putPixel s px).turns = s.turns := rfl
@[simp] theorem putPixel_hostData (s : State) (px : Pixel) : (putPixel s px).hostData = s.hostData := rfl
@[simp] theorem putPixel_hostHandle (s : State) (px : Pixel) : (putPixel s px).hostHandle = s.hostHandle := rfl
@[simp] theorem putPixel_freeCount (s : State) (px : Pixel) : (putPixel s px).freeCount = s.freeCount := rfl

/-! ## setPrev -/

@[simp] theorem setPrev_cfg (s : State) (px : Pixel) : (setPrev s px).cfg = s.cfg := rfl
@[simp] theorem setPrev_enc (s : State) (px : Pixel) : (setPrev s px).enc = s.enc := rfl
@[simp] theorem setPrev_dec_phase (s : State) (px : Pixel) : (setPrev s px).dec.phase = s.dec.phase := rfl
@[simp] theorem setPrev_dec_inBuf (s : State) (px : Pixel) : (setPrev s px).dec.inBuf = s.dec.inBuf := rfl
@[simp] theorem setPrev_dec_inLen (s : State) (px : Pixel) : (setPrev s px).dec.inLen = s.dec.inLen := rfl
@[simp] theorem setPrev_dec_outBuf (s : State) (px : Pixel) : (setPrev s px).dec.outBuf = s.dec.outBuf := rfl
@[simp] theorem setPrev_dec_err (s : State) (px : Pixel) : (setPrev s px).dec.err = s.dec.err := rfl
@[simp] theorem setPrev_dec_errOffset (s : State) (px : Pixel) : (setPrev s px).dec.errOffset = s.dec.errOffset := rfl
@[simp] theorem setPrev_dec_width (s : State) (px : Pixel) : (setPrev s px).dec.width = s.dec.width := rfl
@[simp] theorem setPrev_dec_height (s : State) (px : Pixel) : (setPrev s px).dec.height = s.dec.height := rfl
@[simp] theorem setPrev_dec_channels (s : State) (px : Pixel) : (setPrev s px).dec.channels = s.dec.channels := rfl
@[simp] theorem setPrev_dec_colorspace (s : State) (px : Pixel) : (setPrev s px).dec.colorspace = s.dec.colorspace := rfl
@[simp] theorem setPrev_dec_pixels (s : State) (px : Pixel) : (setPrev s px).dec.pixels = s.dec.pixels := rfl
@[simp] theorem setPrev_dec_cache (s : State) (px : Pixel) : (setPrev s px).dec.cache = s.dec.cache := rfl
@[simp] theorem setPrev_dec_prev (s : State) (px : Pixel) : (setPrev s px).dec.prev = px := rfl
@[simp] theorem setPrev_dec_cursor (s : State) (px : Pixel) : (setPrev s px).dec.cursor = s.dec.cursor := rfl
@[simp] theorem setPrev_dec_produced (s : State) (px : Pixel) : (setPrev s px).dec.produced = s.dec.produced := rfl
@[simp] theorem setPrev_dec_n (s : State) (px : Pixel) : (setPrev s px).dec.n = s.dec.n := rfl
@[simp] theorem setPrev_dec_l (s : State) (px : Pixel) : (setPrev s px).dec.l = s.dec.l := rfl
@[simp] theorem setPrev_dec_bodyEnd (s : State) (px : Pixel) : (setPrev s px).dec.bodyEnd = s.dec.bodyEnd := rfl
@[simp] theorem setPrev_mem (s : State) (px : Pixel) : (setPrev s px).mem = s.mem := rfl
@[simp] theorem setPrev_host (s : State) (px : Pixel) : (setPrev s px).host = s.host := rfl
@[simp] theorem setPrev_turns (s : State) (px : Pixel) : (setPrev s px).turns = s.turns := rfl
@[simp] theorem setPrev_hostData (s : State) (px : Pixel) : (setPrev s px).hostData = s.hostData := rfl
@[simp] theorem setPrev_hostHandle (s : State) (px : Pixel) : (setPrev s px).hostHandle = s.hostHandle := rfl
@[simp] theorem setPrev_freeCount (s : State) (px : Pixel) : (setPrev s px).freeCount = s.freeCount := rfl

/-! ## advance -/

@[simp] theorem advance_cfg (s : State) (len : Nat) : (advance s len).cfg = s.cfg := rfl
@[simp] theorem advance_enc (s : State) (len : Nat) : (advance s len).enc = s.enc := rfl
@[simp] theorem advance_dec_phase (s : State) (len : Nat) : (advance s len).dec.phase = s.dec.phase := rfl
@[simp] theorem advance_dec_inBuf (s : State) (len : Nat) : (advance s len).dec.inBuf = s.dec.inBuf := rfl
@[simp] theorem advance_dec_inLen (s : State) (len : Nat) : (advance s len).dec.inLen = s.dec.inLen := rfl
@[simp] theorem advance_dec_outBuf (s : State) (len : Nat) : (advance s len).dec.outBuf = s.dec.outBuf := rfl
@[simp] theorem advance_dec_err (s : State) (len : Nat) : (advance s len).dec.err = s.dec.err := rfl
@[simp] theorem advance_dec_errOffset (s : State) (len : Nat) : (advance s len).dec.errOffset = s.dec.errOffset := rfl
@[simp] theorem advance_dec_width (s : State) (len : Nat) : (advance s len).dec.width = s.dec.width := rfl
@[simp] theorem advance_dec_height (s : State) (len : Nat) : (advance s len).dec.height = s.dec.height := rfl
@[simp] theorem advance_dec_channels (s : State) (len : Nat) : (advance s len).dec.channels = s.dec.channels := rfl
@[simp] theorem advance_dec_colorspace (s : State) (len : Nat) : (advance s len).dec.colorspace = s.dec.colorspace := rfl
@[simp] theorem advance_dec_pixels (s : State) (len : Nat) : (advance s len).dec.pixels = s.dec.pixels := rfl
@[simp] theorem advance_dec_cache (s : State) (len : Nat) : (advance s len).dec.cache = s.dec.cache := rfl
@[simp] theorem advance_dec_prev (s : State) (len : Nat) : (advance s len).dec.prev = s.dec.prev := rfl
@[simp] theorem advance_dec_cursor (s : State) (len : Nat) : (advance s len).dec.cursor = counter s.cfg (s.dec.cursor.toNat + len) := rfl
@[simp] theorem advance_dec_produced (s : State) (len : Nat) : (advance s len).dec.produced = s.dec.produced := rfl
@[simp] theorem advance_dec_n (s : State) (len : Nat) : (advance s len).dec.n = s.dec.n := rfl
@[simp] theorem advance_dec_l (s : State) (len : Nat) : (advance s len).dec.l = s.dec.l := rfl
@[simp] theorem advance_dec_bodyEnd (s : State) (len : Nat) : (advance s len).dec.bodyEnd = s.dec.bodyEnd := rfl
@[simp] theorem advance_mem (s : State) (len : Nat) : (advance s len).mem = s.mem := rfl
@[simp] theorem advance_host (s : State) (len : Nat) : (advance s len).host = s.host := rfl
@[simp] theorem advance_turns (s : State) (len : Nat) : (advance s len).turns = s.turns := rfl
@[simp] theorem advance_hostData (s : State) (len : Nat) : (advance s len).hostData = s.hostData := rfl
@[simp] theorem advance_hostHandle (s : State) (len : Nat) : (advance s len).hostHandle = s.hostHandle := rfl
@[simp] theorem advance_freeCount (s : State) (len : Nat) : (advance s len).freeCount = s.freeCount := rfl

/-! ## spoilOutput -/

@[simp] theorem spoilOutput_cfg (s : State) : (spoilOutput s).cfg = s.cfg := rfl
@[simp] theorem spoilOutput_enc (s : State) : (spoilOutput s).enc = s.enc := rfl
@[simp] theorem spoilOutput_dec (s : State) : (spoilOutput s).dec = s.dec := rfl
@[simp] theorem spoilOutput_host (s : State) : (spoilOutput s).host = s.host := rfl
@[simp] theorem spoilOutput_turns (s : State) : (spoilOutput s).turns = s.turns := rfl
@[simp] theorem spoilOutput_hostData (s : State) : (spoilOutput s).hostData = s.hostData := rfl
@[simp] theorem spoilOutput_hostHandle (s : State) : (spoilOutput s).hostHandle = s.hostHandle := rfl
@[simp] theorem spoilOutput_freeCount (s : State) : (spoilOutput s).freeCount = s.freeCount + 1 := rfl

/-! ## raiseErr -/

@[simp] theorem raiseErr_cfg (s : State) (e : DecErr) (off : Word64) : (raiseErr s e off).cfg = s.cfg := rfl
@[simp] theorem raiseErr_enc (s : State) (e : DecErr) (off : Word64) : (raiseErr s e off).enc = s.enc := rfl
@[simp] theorem raiseErr_dec_phase (s : State) (e : DecErr) (off : Word64) : (raiseErr s e off).dec.phase = .error := rfl
@[simp] theorem raiseErr_dec_inBuf (s : State) (e : DecErr) (off : Word64) : (raiseErr s e off).dec.inBuf = s.dec.inBuf := rfl
@[simp] theorem raiseErr_dec_inLen (s : State) (e : DecErr) (off : Word64) : (raiseErr s e off).dec.inLen = s.dec.inLen := rfl
@[simp] theorem raiseErr_dec_outBuf (s : State) (e : DecErr) (off : Word64) : (raiseErr s e off).dec.outBuf = s.dec.outBuf := rfl
@[simp] theorem raiseErr_dec_err (s : State) (e : DecErr) (off : Word64) : (raiseErr s e off).dec.err = some e := rfl
@[simp] theorem raiseErr_dec_errOffset (s : State) (e : DecErr) (off : Word64) : (raiseErr s e off).dec.errOffset = off := rfl
@[simp] theorem raiseErr_dec_width (s : State) (e : DecErr) (off : Word64) : (raiseErr s e off).dec.width = s.dec.width := rfl
@[simp] theorem raiseErr_dec_height (s : State) (e : DecErr) (off : Word64) : (raiseErr s e off).dec.height = s.dec.height := rfl
@[simp] theorem raiseErr_dec_channels (s : State) (e : DecErr) (off : Word64) : (raiseErr s e off).dec.channels = s.dec.channels := rfl
@[simp] theorem raiseErr_dec_colorspace (s : State) (e : DecErr) (off : Word64) : (raiseErr s e off).dec.colorspace = s.dec.colorspace := rfl
@[simp] theorem raiseErr_dec_pixels (s : State) (e : DecErr) (off : Word64) : (raiseErr s e off).dec.pixels = s.dec.pixels := rfl
@[simp] theorem raiseErr_dec_cache (s : State) (e : DecErr) (off : Word64) : (raiseErr s e off).dec.cache = s.dec.cache := rfl
@[simp] theorem raiseErr_dec_prev (s : State) (e : DecErr) (off : Word64) : (raiseErr s e off).dec.prev = s.dec.prev := rfl
@[simp] theorem raiseErr_dec_cursor (s : State) (e : DecErr) (off : Word64) : (raiseErr s e off).dec.cursor = s.dec.cursor := rfl
@[simp] theorem raiseErr_dec_produced (s : State) (e : DecErr) (off : Word64) : (raiseErr s e off).dec.produced = s.dec.produced := rfl
@[simp] theorem raiseErr_dec_n (s : State) (e : DecErr) (off : Word64) : (raiseErr s e off).dec.n = s.dec.n := rfl
@[simp] theorem raiseErr_dec_l (s : State) (e : DecErr) (off : Word64) : (raiseErr s e off).dec.l = s.dec.l := rfl
@[simp] theorem raiseErr_dec_bodyEnd (s : State) (e : DecErr) (off : Word64) : (raiseErr s e off).dec.bodyEnd = s.dec.bodyEnd := rfl
@[simp] theorem raiseErr_mem (s : State) (e : DecErr) (off : Word64) : (raiseErr s e off).mem = (spoilOutput s).mem := rfl
@[simp] theorem raiseErr_host (s : State) (e : DecErr) (off : Word64) : (raiseErr s e off).host = s.host := rfl
@[simp] theorem raiseErr_turns (s : State) (e : DecErr) (off : Word64) : (raiseErr s e off).turns = s.turns := rfl
@[simp] theorem raiseErr_hostData (s : State) (e : DecErr) (off : Word64) : (raiseErr s e off).hostData = s.hostData := rfl
@[simp] theorem raiseErr_hostHandle (s : State) (e : DecErr) (off : Word64) : (raiseErr s e off).hostHandle = s.hostHandle := rfl
@[simp] theorem raiseErr_freeCount (s : State) (e : DecErr) (off : Word64) : (raiseErr s e off).freeCount = s.freeCount + 1 := rfl

/-! ## setHeaderRegs -/

@[simp] theorem setHeaderRegs_cfg (s : State) (h : Header) : (setHeaderRegs s h).cfg = s.cfg := rfl
@[simp] theorem setHeaderRegs_enc (s : State) (h : Header) : (setHeaderRegs s h).enc = s.enc := rfl
@[simp] theorem setHeaderRegs_dec_phase (s : State) (h : Header) : (setHeaderRegs s h).dec.phase = s.dec.phase := rfl
@[simp] theorem setHeaderRegs_dec_inBuf (s : State) (h : Header) : (setHeaderRegs s h).dec.inBuf = s.dec.inBuf := rfl
@[simp] theorem setHeaderRegs_dec_inLen (s : State) (h : Header) : (setHeaderRegs s h).dec.inLen = s.dec.inLen := rfl
@[simp] theorem setHeaderRegs_dec_outBuf (s : State) (h : Header) : (setHeaderRegs s h).dec.outBuf = s.dec.outBuf := rfl
@[simp] theorem setHeaderRegs_dec_err (s : State) (h : Header) : (setHeaderRegs s h).dec.err = s.dec.err := rfl
@[simp] theorem setHeaderRegs_dec_errOffset (s : State) (h : Header) : (setHeaderRegs s h).dec.errOffset = s.dec.errOffset := rfl
@[simp] theorem setHeaderRegs_dec_width (s : State) (h : Header) : (setHeaderRegs s h).dec.width = h.width := rfl
@[simp] theorem setHeaderRegs_dec_height (s : State) (h : Header) : (setHeaderRegs s h).dec.height = h.height := rfl
@[simp] theorem setHeaderRegs_dec_channels (s : State) (h : Header) : (setHeaderRegs s h).dec.channels = h.channels := rfl
@[simp] theorem setHeaderRegs_dec_colorspace (s : State) (h : Header) : (setHeaderRegs s h).dec.colorspace = h.colorspace := rfl
@[simp] theorem setHeaderRegs_dec_pixels (s : State) (h : Header) : (setHeaderRegs s h).dec.pixels = s.dec.pixels := rfl
@[simp] theorem setHeaderRegs_dec_cache (s : State) (h : Header) : (setHeaderRegs s h).dec.cache = s.dec.cache := rfl
@[simp] theorem setHeaderRegs_dec_prev (s : State) (h : Header) : (setHeaderRegs s h).dec.prev = s.dec.prev := rfl
@[simp] theorem setHeaderRegs_dec_cursor (s : State) (h : Header) : (setHeaderRegs s h).dec.cursor = s.dec.cursor := rfl
@[simp] theorem setHeaderRegs_dec_produced (s : State) (h : Header) : (setHeaderRegs s h).dec.produced = s.dec.produced := rfl
@[simp] theorem setHeaderRegs_dec_n (s : State) (h : Header) : (setHeaderRegs s h).dec.n = s.dec.n := rfl
@[simp] theorem setHeaderRegs_dec_l (s : State) (h : Header) : (setHeaderRegs s h).dec.l = s.dec.l := rfl
@[simp] theorem setHeaderRegs_dec_bodyEnd (s : State) (h : Header) : (setHeaderRegs s h).dec.bodyEnd = s.dec.bodyEnd := rfl
@[simp] theorem setHeaderRegs_mem (s : State) (h : Header) : (setHeaderRegs s h).mem = s.mem := rfl
@[simp] theorem setHeaderRegs_host (s : State) (h : Header) : (setHeaderRegs s h).host = s.host := rfl
@[simp] theorem setHeaderRegs_turns (s : State) (h : Header) : (setHeaderRegs s h).turns = s.turns := rfl
@[simp] theorem setHeaderRegs_hostData (s : State) (h : Header) : (setHeaderRegs s h).hostData = s.hostData := rfl
@[simp] theorem setHeaderRegs_hostHandle (s : State) (h : Header) : (setHeaderRegs s h).hostHandle = s.hostHandle := rfl
@[simp] theorem setHeaderRegs_freeCount (s : State) (h : Header) : (setHeaderRegs s h).freeCount = s.freeCount := rfl

/-! ## decClear -/

@[simp] theorem decClear_cfg (s : State) : (decClear s).cfg = s.cfg := rfl
@[simp] theorem decClear_enc (s : State) : (decClear s).enc = s.enc := rfl
@[simp] theorem decClear_dec_phase (s : State) : (decClear s).dec.phase = .busy := rfl
@[simp] theorem decClear_dec_inBuf (s : State) : (decClear s).dec.inBuf = s.dec.inBuf := rfl
@[simp] theorem decClear_dec_inLen (s : State) : (decClear s).dec.inLen = s.dec.inLen := rfl
@[simp] theorem decClear_dec_outBuf (s : State) : (decClear s).dec.outBuf = s.dec.outBuf := rfl
@[simp] theorem decClear_dec_err (s : State) : (decClear s).dec.err = none := rfl
@[simp] theorem decClear_dec_errOffset (s : State) : (decClear s).dec.errOffset = 0 := rfl
@[simp] theorem decClear_dec_width (s : State) : (decClear s).dec.width = 0 := rfl
@[simp] theorem decClear_dec_height (s : State) : (decClear s).dec.height = 0 := rfl
@[simp] theorem decClear_dec_channels (s : State) : (decClear s).dec.channels = 0 := rfl
@[simp] theorem decClear_dec_colorspace (s : State) : (decClear s).dec.colorspace = 0 := rfl
@[simp] theorem decClear_dec_pixels (s : State) : (decClear s).dec.pixels = 0 := rfl
@[simp] theorem decClear_dec_cache (s : State) : (decClear s).dec.cache = s.dec.cache := rfl
@[simp] theorem decClear_dec_prev (s : State) : (decClear s).dec.prev = s.dec.prev := rfl
@[simp] theorem decClear_dec_cursor (s : State) : (decClear s).dec.cursor = s.dec.cursor := rfl
@[simp] theorem decClear_dec_produced (s : State) : (decClear s).dec.produced = s.dec.produced := rfl
@[simp] theorem decClear_dec_n (s : State) : (decClear s).dec.n = s.dec.n := rfl
@[simp] theorem decClear_dec_l (s : State) : (decClear s).dec.l = counter s.cfg s.dec.inLen.toNat := rfl
@[simp] theorem decClear_dec_bodyEnd (s : State) : (decClear s).dec.bodyEnd = s.dec.bodyEnd := rfl
@[simp] theorem decClear_mem (s : State) : (decClear s).mem = s.mem := rfl
@[simp] theorem decClear_host (s : State) : (decClear s).host = s.host := rfl
@[simp] theorem decClear_turns (s : State) : (decClear s).turns = s.turns := rfl
@[simp] theorem decClear_hostData (s : State) : (decClear s).hostData = s.hostData := rfl
@[simp] theorem decClear_hostHandle (s : State) : (decClear s).hostHandle = s.hostHandle := rfl
@[simp] theorem decClear_freeCount (s : State) : (decClear s).freeCount = s.freeCount := rfl

/-! ## decLaunch -/

@[simp] theorem decLaunch_cfg (s : State) : (decLaunch s).cfg = s.cfg := rfl
@[simp] theorem decLaunch_enc (s : State) : (decLaunch s).enc = s.enc := rfl
@[simp] theorem decLaunch_dec_phase (s : State) : (decLaunch s).dec.phase = s.dec.phase := rfl
@[simp] theorem decLaunch_dec_inBuf (s : State) : (decLaunch s).dec.inBuf = s.dec.inBuf := rfl
@[simp] theorem decLaunch_dec_inLen (s : State) : (decLaunch s).dec.inLen = s.dec.inLen := rfl
@[simp] theorem decLaunch_dec_outBuf (s : State) : (decLaunch s).dec.outBuf = s.dec.outBuf := rfl
@[simp] theorem decLaunch_dec_err (s : State) : (decLaunch s).dec.err = s.dec.err := rfl
@[simp] theorem decLaunch_dec_errOffset (s : State) : (decLaunch s).dec.errOffset = s.dec.errOffset := rfl
@[simp] theorem decLaunch_dec_width (s : State) : (decLaunch s).dec.width = s.dec.width := rfl
@[simp] theorem decLaunch_dec_height (s : State) : (decLaunch s).dec.height = s.dec.height := rfl
@[simp] theorem decLaunch_dec_channels (s : State) : (decLaunch s).dec.channels = s.dec.channels := rfl
@[simp] theorem decLaunch_dec_colorspace (s : State) : (decLaunch s).dec.colorspace = s.dec.colorspace := rfl
@[simp] theorem decLaunch_dec_pixels (s : State) : (decLaunch s).dec.pixels = s.dec.pixels := rfl
@[simp] theorem decLaunch_dec_cache (s : State) : (decLaunch s).dec.cache = cacheInit s.cfg := rfl
@[simp] theorem decLaunch_dec_prev (s : State) : (decLaunch s).dec.prev = s.cfg.prevInitPixel := rfl
@[simp] theorem decLaunch_dec_cursor (s : State) : (decLaunch s).dec.cursor = counter s.cfg 14 := rfl
@[simp] theorem decLaunch_dec_produced (s : State) : (decLaunch s).dec.produced = 0 := rfl
@[simp] theorem decLaunch_dec_n (s : State) : (decLaunch s).dec.n = pixelCount s.cfg s.dec.width s.dec.height := rfl
@[simp] theorem decLaunch_dec_l (s : State) : (decLaunch s).dec.l = s.dec.l := rfl
@[simp] theorem decLaunch_dec_bodyEnd (s : State) : (decLaunch s).dec.bodyEnd = bodyEndOf s.cfg s.dec.l := rfl
@[simp] theorem decLaunch_mem (s : State) : (decLaunch s).mem = s.mem := rfl
@[simp] theorem decLaunch_host (s : State) : (decLaunch s).host = s.host := rfl
@[simp] theorem decLaunch_turns (s : State) : (decLaunch s).turns = s.turns := rfl
@[simp] theorem decLaunch_hostData (s : State) : (decLaunch s).hostData = s.hostData := rfl
@[simp] theorem decLaunch_hostHandle (s : State) : (decLaunch s).hostHandle = s.hostHandle := rfl
@[simp] theorem decLaunch_freeCount (s : State) : (decLaunch s).freeCount = s.freeCount := rfl

/-! ## encLaunch -/

@[simp] theorem encLaunch_cfg (s : State) : (encLaunch s).cfg = s.cfg := rfl
@[simp] theorem encLaunch_enc_phase (s : State) : (encLaunch s).enc.phase = .busy := rfl
@[simp] theorem encLaunch_enc_width (s : State) : (encLaunch s).enc.width = s.enc.width := rfl
@[simp] theorem encLaunch_enc_height (s : State) : (encLaunch s).enc.height = s.enc.height := rfl
@[simp] theorem encLaunch_enc_channels (s : State) : (encLaunch s).enc.channels = s.enc.channels := rfl
@[simp] theorem encLaunch_enc_colorspace (s : State) : (encLaunch s).enc.colorspace = s.enc.colorspace := rfl
@[simp] theorem encLaunch_enc_inBuf (s : State) : (encLaunch s).enc.inBuf = s.enc.inBuf := rfl
@[simp] theorem encLaunch_enc_outBuf (s : State) : (encLaunch s).enc.outBuf = s.enc.outBuf := rfl
@[simp] theorem encLaunch_enc_cache (s : State) : (encLaunch s).enc.cache = cacheInit s.cfg := rfl
@[simp] theorem encLaunch_enc_prev (s : State) : (encLaunch s).enc.prev = s.cfg.prevInitPixel := rfl
@[simp] theorem encLaunch_enc_run (s : State) : (encLaunch s).enc.run = 0 := rfl
@[simp] theorem encLaunch_enc_pos (s : State) : (encLaunch s).enc.pos = 0 := rfl
@[simp] theorem encLaunch_enc_n (s : State) : (encLaunch s).enc.n = pixelCount s.cfg s.enc.width s.enc.height := rfl
@[simp] theorem encLaunch_dec (s : State) : (encLaunch s).dec = s.dec := rfl
@[simp] theorem encLaunch_host (s : State) : (encLaunch s).host = s.host := rfl
@[simp] theorem encLaunch_turns (s : State) : (encLaunch s).turns = s.turns := rfl
@[simp] theorem encLaunch_hostData (s : State) : (encLaunch s).hostData = s.hostData := rfl
@[simp] theorem encLaunch_hostHandle (s : State) : (encLaunch s).hostHandle = s.hostHandle := rfl
@[simp] theorem encLaunch_freeCount (s : State) : (encLaunch s).freeCount = s.freeCount := rfl

/-! ## applyPlan -/

@[simp] theorem applyPlan_cfg (s : State) (px : Pixel) (p : Plan) : (applyPlan s px p).cfg = s.cfg := rfl
@[simp] theorem applyPlan_enc_phase (s : State) (px : Pixel) (p : Plan) : (applyPlan s px p).enc.phase = s.enc.phase := rfl
@[simp] theorem applyPlan_enc_width (s : State) (px : Pixel) (p : Plan) : (applyPlan s px p).enc.width = s.enc.width := rfl
@[simp] theorem applyPlan_enc_height (s : State) (px : Pixel) (p : Plan) : (applyPlan s px p).enc.height = s.enc.height := rfl
@[simp] theorem applyPlan_enc_channels (s : State) (px : Pixel) (p : Plan) : (applyPlan s px p).enc.channels = s.enc.channels := rfl
@[simp] theorem applyPlan_enc_colorspace (s : State) (px : Pixel) (p : Plan) : (applyPlan s px p).enc.colorspace = s.enc.colorspace := rfl
@[simp] theorem applyPlan_enc_inBuf (s : State) (px : Pixel) (p : Plan) : (applyPlan s px p).enc.inBuf = s.enc.inBuf := rfl
@[simp] theorem applyPlan_enc_outBuf (s : State) (px : Pixel) (p : Plan) : (applyPlan s px p).enc.outBuf = s.enc.outBuf := rfl
@[simp] theorem applyPlan_enc_outLen (s : State) (px : Pixel) (p : Plan) : (applyPlan s px p).enc.outLen = (emitOpcodes s p.opcodes).enc.outLen := rfl
@[simp] theorem applyPlan_enc_cache (s : State) (px : Pixel) (p : Plan) : (applyPlan s px p).enc.cache = p.cache := rfl
@[simp] theorem applyPlan_enc_prev (s : State) (px : Pixel) (p : Plan) : (applyPlan s px p).enc.prev = px := rfl
@[simp] theorem applyPlan_enc_run (s : State) (px : Pixel) (p : Plan) : (applyPlan s px p).enc.run = BitVec.ofNat 6 p.run := rfl
@[simp] theorem applyPlan_enc_pos (s : State) (px : Pixel) (p : Plan) : (applyPlan s px p).enc.pos = counter s.cfg (s.enc.pos.toNat + 1) := rfl
@[simp] theorem applyPlan_enc_n (s : State) (px : Pixel) (p : Plan) : (applyPlan s px p).enc.n = s.enc.n := rfl
@[simp] theorem applyPlan_dec (s : State) (px : Pixel) (p : Plan) : (applyPlan s px p).dec = s.dec := rfl
@[simp] theorem applyPlan_mem (s : State) (px : Pixel) (p : Plan) : (applyPlan s px p).mem = (emitOpcodes s p.opcodes).mem := rfl
@[simp] theorem applyPlan_host (s : State) (px : Pixel) (p : Plan) : (applyPlan s px p).host = s.host := rfl
@[simp] theorem applyPlan_turns (s : State) (px : Pixel) (p : Plan) : (applyPlan s px p).turns = s.turns := rfl
@[simp] theorem applyPlan_hostData (s : State) (px : Pixel) (p : Plan) : (applyPlan s px p).hostData = s.hostData := rfl
@[simp] theorem applyPlan_hostHandle (s : State) (px : Pixel) (p : Plan) : (applyPlan s px p).hostHandle = s.hostHandle := rfl
@[simp] theorem applyPlan_freeCount (s : State) (px : Pixel) (p : Plan) : (applyPlan s px p).freeCount = s.freeCount := rfl

/-! ## popTurn -/

@[simp] theorem popTurn_cfg (s : State) : (popTurn s).cfg = s.cfg := rfl
@[simp] theorem popTurn_enc (s : State) : (popTurn s).enc = s.enc := rfl
@[simp] theorem popTurn_dec (s : State) : (popTurn s).dec = s.dec := rfl
@[simp] theorem popTurn_mem (s : State) : (popTurn s).mem = s.mem := rfl
@[simp] theorem popTurn_host (s : State) : (popTurn s).host = s.host := rfl
@[simp] theorem popTurn_turns (s : State) : (popTurn s).turns = s.turns.tail := rfl
@[simp] theorem popTurn_hostData (s : State) : (popTurn s).hostData = s.hostData := rfl
@[simp] theorem popTurn_hostHandle (s : State) : (popTurn s).hostHandle = s.hostHandle := rfl
@[simp] theorem popTurn_freeCount (s : State) : (popTurn s).freeCount = s.freeCount := rfl

/-! ## readReg -/

@[simp] theorem readReg_cfg (s : State) (r : Reg) : (readReg s r).cfg = s.cfg := rfl
@[simp] theorem readReg_enc (s : State) (r : Reg) : (readReg s r).enc = s.enc := rfl
@[simp] theorem readReg_dec (s : State) (r : Reg) : (readReg s r).dec = s.dec := rfl
@[simp] theorem readReg_mem (s : State) (r : Reg) : (readReg s r).mem = s.mem := rfl
@[simp] theorem readReg_host (s : State) (r : Reg) : (readReg s r).host = s.host := rfl
@[simp] theorem readReg_turns (s : State) (r : Reg) : (readReg s r).turns = s.turns := rfl
@[simp] theorem readReg_hostData (s : State) (r : Reg) : (readReg s r).hostData = regValue s r := rfl
@[simp] theorem readReg_hostHandle (s : State) (r : Reg) : (readReg s r).hostHandle = s.hostHandle := rfl
@[simp] theorem readReg_freeCount (s : State) (r : Reg) : (readReg s r).freeCount = s.freeCount := rfl

/-! ## readBuffer -/

@[simp] theorem readBuffer_cfg (s : State) (b : BufName) : (readBuffer s b).cfg = s.cfg := rfl
@[simp] theorem readBuffer_enc (s : State) (b : BufName) : (readBuffer s b).enc = s.enc := rfl
@[simp] theorem readBuffer_dec (s : State) (b : BufName) : (readBuffer s b).dec = s.dec := rfl
@[simp] theorem readBuffer_mem (s : State) (b : BufName) : (readBuffer s b).mem = s.mem := rfl
@[simp] theorem readBuffer_host (s : State) (b : BufName) : (readBuffer s b).host = s.host := rfl
@[simp] theorem readBuffer_turns (s : State) (b : BufName) : (readBuffer s b).turns = s.turns := rfl
@[simp] theorem readBuffer_hostData (s : State) (b : BufName) : (readBuffer s b).hostData = s.hostData := rfl
@[simp] theorem readBuffer_freeCount (s : State) (b : BufName) : (readBuffer s b).freeCount = s.freeCount := rfl
@[simp] theorem readBuffer_hostHandle (s : State) (b : BufName) : (readBuffer s b).hostHandle = bufValue s b := rfl

end Sys2Proof.Machine
end

