-- ==== Sys2Proof/Laws/Ops.lean ====
section
/-!
SUPPORT. What each shared operation does, said once: the caches, the pixel write and its repetition, the error, the
encoder's output, and the two ways an opcode ends.
-/

namespace Sys2Proof.Machine

/-! ## Counters -/

theorem counter_toNat (cfg : Config) (x : Nat) : (counter cfg x).toNat = x % 2 ^ min cfg.counterWidth 64 := by
  have h : x % 2 ^ min cfg.counterWidth 64 < 2 ^ 64 :=
    lt_of_lt_of_le (Nat.mod_lt _ (by positivity)) (Nat.pow_le_pow_right (by omega) (min_le_right _ _))
  rw [counter, BitVec.toNat_ofNat, Nat.mod_eq_of_lt h]

/-- A number that fits the counter width is held whole. -/
theorem counter_toNat_of_lt {cfg : Config} {x : Nat} (h : x < 2 ^ cfg.counterWidth) (h' : x < 2 ^ 64) :
    (counter cfg x).toNat = x := by
  rw [counter_toNat]
  apply Nat.mod_eq_of_lt
  rcases min_choice cfg.counterWidth 64 with e | e <;> rwa [e]

/-- A counter never holds more than its width. -/
theorem counter_toNat_lt (cfg : Config) (x : Nat) : (counter cfg x).toNat < 2 ^ cfg.counterWidth := by
  rw [counter_toNat]
  exact lt_of_lt_of_le (Nat.mod_lt _ (by positivity)) (Nat.pow_le_pow_right (by omega) (min_le_left _ _))

/-- With 64 bits or more a counter holds what a 64-bit register holds (10_state.md R27). -/
theorem counter_wide {cfg : Config} (h : 64 ≤ cfg.counterWidth) {x : Nat} (hx : x < 2 ^ 64) :
    (counter cfg x).toNat = x := by
  rw [counter_toNat, min_eq_right h, Nat.mod_eq_of_lt hx]

/-! ## Pixels and caches -/

theorem pixelHash_toNat (px : Pixel) :
    (pixelHash px).toNat = (px.r.toNat * 3 + px.g.toNat * 5 + px.b.toNat * 7 + px.a.toNat * 11) % 64 := by
  simp [pixelHash, BitVec.toNat_ofNat]

theorem pixelSize_eq {c : Byte} (h : c = 3 ∨ c = 4) : pixelSize c = c.toNat := by
  rcases h with rfl | rfl <;> rfl

@[simp] theorem pixelBytes_length (c : Byte) (px : Pixel) : (pixelBytes c px).length = pixelSize c := by
  unfold pixelBytes pixelSize
  split <;> rfl

theorem cacheRead_cacheWrite (c : Cache) (px : Pixel) (k : Slot) :
    cacheRead (cacheWrite c px) k = if k = pixelHash px then px else cacheRead c k := by
  unfold cacheRead cacheWrite
  rw [Vector.get_eq_getElem, Vector.get_eq_getElem, Vector.getElem_set]
  by_cases h : k = pixelHash px
  · simp [h]
  · have : ¬ (pixelHash px).toNat = k.toNat := fun e => h (BitVec.eq_of_toNat_eq e.symm)
    simp [h, this]

@[simp] theorem cacheRead_cacheWrite_self (c : Cache) (px : Pixel) :
    cacheRead (cacheWrite c px) (pixelHash px) = px := by
  simp [cacheRead_cacheWrite]

theorem cacheRead_cacheInit (cfg : Config) (k : Slot) : cacheRead (cacheInit cfg) k = cfg.cacheInitPixel := by
  simp [cacheRead, cacheInit, Vector.get_eq_getElem]

/-- Two caches that agree slot by slot are equal. -/
theorem cache_ext {c c' : Cache} (h : ∀ k, cacheRead c k = cacheRead c' k) : c = c' := by
  apply Vector.ext
  intro i hi
  have := h (BitVec.ofNat 6 i)
  have e : i % 64 = i := Nat.mod_eq_of_lt hi
  simpa [cacheRead, Vector.get_eq_getElem, e] using this

/-- Storing a pixel where it already is changes nothing (40_shared.md R111). -/
theorem cacheWrite_of_hit {c : Cache} {px : Pixel} (h : cacheRead c (pixelHash px) = px) : cacheWrite c px = c := by
  apply cache_ext
  intro k
  rw [cacheRead_cacheWrite]
  split
  · subst_vars
    exact h.symm
  · rfl

/-! ## Buffers -/

theorem covers_false {b : Option Buffer} {a : Nat} :
    covers b a = false ↔ a < bufBase b ∨ bufBase b + bufSize b ≤ a := by
  simp [covers]
  omega

theorem covers_true {b : Option Buffer} {a : Nat} :
    covers b a = true ↔ bufBase b ≤ a ∧ a < bufBase b + bufSize b := by
  simp [covers]

/-- Two buffers that do not overlap share no address. -/
theorem not_covers_both {b c : Option Buffer} (h : overlap b c = false) {a : Nat} (hb : covers b a = true) :
    covers c a = false := by
  rw [covers_true] at hb
  rw [covers_false]
  simp only [overlap, decide_eq_false_iff_not, not_lt] at h
  omega

/-! ## The error -/

theorem spoilOutput_readByte (s : State) (a : Nat) (h : covers s.dec.outBuf a = false) :
    readByte (spoilOutput s).mem a = readByte s.mem a := by
  rw [covers_false] at h
  exact readByte_writeBytes_outside _ _ _ _ (by simpa using h)

/-- An error changes no byte outside DEC_OUT. -/
theorem raiseErr_readByte (s : State) (e : DecErr) (off : Word64) (a : Nat) (h : covers s.dec.outBuf a = false) :
    readByte (raiseErr s e off).mem a = readByte s.mem a := by
  rw [raiseErr_mem]
  exact spoilOutput_readByte s a h

theorem raiseErr_wf {s : State} (h : Memory.wf s.mem) (e : DecErr) (off : Word64) :
    Memory.wf (raiseErr s e off).mem := by
  rw [raiseErr_mem]
  exact wf_writeBytes _ h _

/-! ## The encoder's output -/

theorem emit_wf {s : State} (h : Memory.wf s.mem) (bs : List Byte) : Memory.wf (emit s bs).mem :=
  wf_writeBytes _ h _

@[simp] theorem emit_nil (s : State) : emit s [] = s := by
  simp [emit, writeBytes]

/-- Emitting in two pieces is emitting the whole, while ENC_OUT_LEN keeps within its 64 bits. -/
theorem emit_append (s : State) (bs cs : List Byte) (h : s.enc.outLen.toNat + bs.length < 2 ^ 64) :
    emit s (bs ++ cs) = emit (emit s bs) cs := by
  have e : (s.enc.outLen.toNat + bs.length) % 2 ^ 64 = s.enc.outLen.toNat + bs.length := Nat.mod_eq_of_lt h
  simp only [emit, writeBytes_append, BitVec.toNat_ofNat, e, List.length_append, Nat.add_assoc]

/-! ## The pixel write -/

/-- The address of output pixel `i` in the terms of 20_memory.md R51. -/
theorem decPixelAddr_eq {d : Dec} {out : Buffer} (ho : d.outBuf = some out) (hc : d.channels = 3 ∨ d.channels = 4)
    (i : Nat) : decPixelAddr d i = out.base + i * d.channels.toNat := by
  simp [decPixelAddr, ho, bufBase, pixelSize_eq hc]

@[simp] theorem decPixelAddr_putPixel (s : State) (px : Pixel) (i : Nat) :
    decPixelAddr (putPixel s px).dec i = decPixelAddr s.dec i := rfl

theorem putPixel_wf {s : State} (h : Memory.wf s.mem) (px : Pixel) : Memory.wf (putPixel s px).mem :=
  wf_writeBytes _ h _

theorem putPixels_wf (px : Pixel) (k : Nat) {s : State} (h : Memory.wf s.mem) : Memory.wf (putPixels s px k).mem := by
  induction k generalizing s with
  | zero => exact h
  | succ k ih => exact ih (putPixel_wf h px)

/-- PutPixel writes the pixel at output position PRODUCED and no other byte. -/
theorem putPixel_output (s : State) (px : Pixel) :
    readBytes (putPixel s px).mem (decPixelAddr s.dec s.dec.produced.toNat) (pixelSize s.dec.channels) =
      pixelBytes s.dec.channels px := by
  have := readBytes_writeBytes (pixelBytes s.dec.channels px) s.mem (decPixelAddr s.dec s.dec.produced.toNat)
  simpa using this

theorem putPixel_readByte_outside (s : State) (px : Pixel) (b : Nat)
    (h : b < decPixelAddr s.dec s.dec.produced.toNat ∨ decPixelAddr s.dec (s.dec.produced.toNat + 1) ≤ b) :
    readByte (putPixel s px).mem b = readByte s.mem b := by
  rw [putPixel_mem]
  apply readByte_writeBytes_outside
  simp only [decPixelAddr, pixelBytes_length, Nat.add_mul, Nat.one_mul] at h ⊢
  omega

theorem putPixel_produced (s : State) (px : Pixel) (h : s.dec.produced.toNat + 1 < 2 ^ s.cfg.counterWidth)
    (h' : s.dec.produced.toNat + 1 < 2 ^ 64) : (putPixel s px).dec.produced.toNat = s.dec.produced.toNat + 1 :=
  counter_toNat_of_lt h h'

/-- Repeated PutPixel leaves every register of DEC but the cache, PRODUCED and DEC_PIXELS, and everything else but the
memory. -/
theorem putPixels_frame (px : Pixel) (k : Nat) (s : State) :
    putPixels s px k =
      { s with
        mem := (putPixels s px k).mem
        dec := { s.dec with
          cache := (putPixels s px k).dec.cache, produced := (putPixels s px k).dec.produced,
          pixels := (putPixels s px k).dec.pixels } } := by
  induction k generalizing s with
  | zero => rfl
  | succ k ih =>
    have := ih (putPixel s px)
    exact this

@[simp] theorem putPixels_cfg (px : Pixel) (k : Nat) (s : State) : (putPixels s px k).cfg = s.cfg := by
  rw [putPixels_frame]

@[simp] theorem putPixels_dec_cursor (px : Pixel) (k : Nat) (s : State) :
    (putPixels s px k).dec.cursor = s.dec.cursor := by
  rw [putPixels_frame]

theorem putPixels_produced (px : Pixel) (k : Nat) (s : State) (h : s.dec.produced.toNat + k < 2 ^ s.cfg.counterWidth)
    (h' : s.dec.produced.toNat + k < 2 ^ 64) :
    (putPixels s px k).dec.produced.toNat = s.dec.produced.toNat + k := by
  induction k generalizing s with
  | zero => rfl
  | succ k ih =>
    have e := putPixel_produced s px (by omega) (by omega)
    rw [putPixels, ih _ (by rw [e, putPixel_cfg]; omega) (by omega), e]
    omega

theorem putPixels_pixels (px : Pixel) (k : Nat) (s : State) (h : 0 < k) :
    (putPixels s px k).dec.pixels = (putPixels s px k).dec.produced := by
  induction k generalizing s with
  | zero => omega
  | succ k ih =>
    rw [putPixels]
    cases k with
    | zero => rfl
    | succ k => exact ih _ (by omega)

theorem putPixels_cache (px : Pixel) (k : Nat) (s : State) (h : 0 < k) :
    (putPixels s px k).dec.cache = cacheWrite s.dec.cache px := by
  induction k generalizing s with
  | zero => omega
  | succ k ih =>
    rw [putPixels]
    cases k with
    | zero => rfl
    | succ k => rw [ih _ (by omega), putPixel_dec_cache, cacheWrite_of_hit (cacheRead_cacheWrite_self _ _)]

/-- The bytes outside the `k` output positions from PRODUCED on are left alone. -/
theorem putPixels_readByte_outside (px : Pixel) (k : Nat) (s : State) (hp : s.dec.produced.toNat + k < 2 ^ s.cfg.counterWidth)
    (hp' : s.dec.produced.toNat + k < 2 ^ 64) (b : Nat)
    (h : b < decPixelAddr s.dec s.dec.produced.toNat ∨ decPixelAddr s.dec (s.dec.produced.toNat + k) ≤ b) :
    readByte (putPixels s px k).mem b = readByte s.mem b := by
  induction k generalizing s with
  | zero => rfl
  | succ k ih =>
    have e := putPixel_produced s px (by omega) (by omega)
    rw [putPixels, ih _ (by rw [e, putPixel_cfg]; omega) (by omega), putPixel_readByte_outside]
    · simp only [decPixelAddr, Nat.add_mul, Nat.one_mul] at h ⊢
      omega
    · simp only [decPixelAddr_putPixel, e]
      simp only [decPixelAddr, Nat.add_mul, Nat.one_mul] at h ⊢
      omega

/-- Each of the `k` output positions from PRODUCED on holds the pixel. -/
theorem putPixels_output (px : Pixel) (k : Nat) (s : State) (hp : s.dec.produced.toNat + k < 2 ^ s.cfg.counterWidth)
    (hp' : s.dec.produced.toNat + k < 2 ^ 64) (j : Nat) (hj : j < k) :
    readBytes (putPixels s px k).mem (decPixelAddr s.dec (s.dec.produced.toNat + j)) (pixelSize s.dec.channels) =
      pixelBytes s.dec.channels px := by
  induction k generalizing s j with
  | zero => omega
  | succ k ih =>
    have e := putPixel_produced s px (by omega) (by omega)
    rw [putPixels]
    cases j with
    | zero =>
      rw [← putPixel_output s px]
      apply readBytes_congr
      intro i hi
      apply putPixels_readByte_outside _ _ _ (by rw [e, putPixel_cfg]; omega) (by omega)
      left
      simp only [decPixelAddr_putPixel, e]
      simp only [decPixelAddr, Nat.add_mul, Nat.one_mul]
      omega
    | succ j =>
      have := ih (putPixel s px) (by rw [e, putPixel_cfg]; omega) (by omega) j (by omega)
      rw [e] at this
      rw [show s.dec.produced.toNat + (j + 1) = s.dec.produced.toNat + 1 + j by omega]
      exact this

/-! ## The cursor -/

/-- The cursor as a number, where it fits the counter width (10_state.md R29). -/
theorem advance_cursor {s : State} {len : Nat} (h : s.dec.cursor.toNat + len < 2 ^ s.cfg.counterWidth)
    (h' : s.dec.cursor.toNat + len < 2 ^ 64) : (advance s len).dec.cursor.toNat = s.dec.cursor.toNat + len :=
  counter_toNat_of_lt h h'

/-! ## What an opcode ends with -/

theorem retire_eq {s : State} {out : Buffer} (h : s.dec.outBuf = some out) (px : Pixel) (len : Nat) :
    retire s px len = .next (advance (setPrev (putPixel s px) px) len) := by
  simp [retire, h]

theorem retireRun_eq {s : State} {out : Buffer} (h : s.dec.outBuf = some out) (k : Nat) :
    retireRun s k = .next (advance (putPixels s s.dec.prev k) 1) := by
  simp [retireRun, h]

/-- Everything `retire` can do. -/
theorem retire_cases {s t : State} {px : Pixel} {len : Nat} (h : retire s px len = .next t) :
    s.dec.outBuf ≠ none ∧ t = advance (setPrev (putPixel s px) px) len := by
  unfold retire at h
  split at h
  · cases h
  · rename_i e
    cases h
    exact ⟨by simp [e], rfl⟩

/-- Everything `retireRun` can do. -/
theorem retireRun_cases {s t : State} {k : Nat} (h : retireRun s k = .next t) :
    s.dec.outBuf ≠ none ∧ t = advance (putPixels s s.dec.prev k) 1 := by
  unfold retireRun at h
  split at h
  · cases h
  · rename_i e
    cases h
    exact ⟨by simp [e], rfl⟩

end Sys2Proof.Machine
end

