-- ==== Sys2Proof/Laws/Exec.lean ====
section
/-!
SUPPORT. What a decoder step can do, said once: the three ways an opcode ends, and what each leaves alone.
-/

namespace Sys2Proof.Machine

/-- Everything an opcode can do when it answers a next state: an error at its first byte, one pixel, or a run of PREV. -/
theorem exec_cases {i : Instr} {s t : State} (h : exec i s = .next t) :
    (∃ e, t = raiseErr s e s.dec.cursor) ∨
    (∃ px, s.dec.outBuf ≠ none ∧ (2 ≤ instrLength i → opcodeFits s (instrLength i) = true) ∧
      t = advance (setPrev (putPixel s px) px) (instrLength i)) ∨
    (∃ n, i = .run n ∧ s.dec.outBuf ≠ none ∧ t = advance (putPixels s s.dec.prev (min n (missing s.dec))) 1) := by
  cases i with
  | rgba r g b a =>
    simp only [exec, execRgba] at h
    split at h
    · obtain ⟨ho, rfl⟩ := retire_cases h
      exact .inr (.inl ⟨_, ho, fun _ => ‹_›, rfl⟩)
    · cases h
      exact .inl ⟨_, rfl⟩
  | rgb r g b =>
    simp only [exec, execRgb] at h
    split at h
    · obtain ⟨ho, rfl⟩ := retire_cases h
      exact .inr (.inl ⟨_, ho, fun _ => ‹_›, rfl⟩)
    · cases h
      exact .inl ⟨_, rfl⟩
  | index k =>
    simp only [exec, execIndex] at h
    obtain ⟨ho, rfl⟩ := retire_cases h
    exact .inr (.inl ⟨_, ho, fun hl => by simp [instrLength] at hl, rfl⟩)
  | diff dr dg db =>
    simp only [exec, execDiff] at h
    split at h
    · obtain ⟨ho, rfl⟩ := retire_cases h
      exact .inr (.inl ⟨_, ho, fun hl => by simp [instrLength] at hl, rfl⟩)
    · cases h
      exact .inl ⟨_, rfl⟩
  | luma dg drDg dbDg =>
    simp only [exec, execLuma] at h
    split at h
    · split at h
      · obtain ⟨ho, rfl⟩ := retire_cases h
        exact .inr (.inl ⟨_, ho, fun _ => ‹_›, rfl⟩)
      · cases h
        exact .inl ⟨_, rfl⟩
    · cases h
      exact .inl ⟨_, rfl⟩
  | run n =>
    simp only [exec, execRun] at h
    split at h
    · cases h
      exact .inl ⟨_, rfl⟩
    · obtain ⟨ho, rfl⟩ := retireRun_cases h
      exact .inr (.inr ⟨_, rfl, ho, rfl⟩)

/-- The fetch reads five bytes, so it finds an opcode (30_encoding.md R83). -/
theorem fetchOpcode_isSome (s : State) (base : Nat) : ∃ i, fetchOpcode s base = some i := by
  obtain ⟨i, rest, h⟩ := decode_five (streamByte s base 0) (streamByte s base 1) (streamByte s base 2)
    (streamByte s base 3) (streamByte s base 4)
  exact ⟨i, by simp [fetchOpcode, fetchWindow, h]⟩

/-- Everything DEC's opcode step can do. -/
theorem decStep_cases {s t : State} (h : decStep s = .next t) :
    (s.dec.bodyEnd.toNat ≤ s.dec.cursor.toNat ∧ t = raiseErr s .underfilled s.dec.cursor) ∨
    (∃ base i, s.dec.cursor.toNat < s.dec.bodyEnd.toNat ∧ s.dec.inBuf = some base ∧ fetchOpcode s base = some i ∧
      exec i s = .next t) := by
  unfold decStep at h
  split at h
  · cases h
    exact .inl ⟨‹_›, rfl⟩
  · split at h
    · cases h
    · split at h
      · exact .inr ⟨_, _, by omega, ‹_›, ‹_›, h⟩
      · cases h

/-- Everything DEC's trailer step can do. -/
theorem decTrailer_cases {s t : State} (h : decTrailer s = .next t) :
    t = raiseErr s .badEndMarker s.dec.cursor ∨
    (∃ base, s.dec.inBuf = some base ∧ trailerLengthOk s = true ∧
      readBytes s.mem (base + s.dec.cursor.toNat) 8 = endMarker ∧
      t = { s with dec := { s.dec with phase := .done } }) := by
  unfold decTrailer at h
  split at h
  · cases h
    exact .inl rfl
  · split at h
    · cases h
    · split at h
      · cases h
        exact .inr ⟨_, ‹_›, by simp_all, ‹_›, rfl⟩
      · cases h
        exact .inl rfl

/-- Everything a step of DEC can do: nothing while it is not BUSY, an opcode step while pixels are missing, otherwise the
trailer step. -/
theorem decAct_cases {s t : State} (h : decAct s = .next t) :
    (s.dec.phase ≠ .busy ∧ t = s) ∨
    (s.dec.phase = .busy ∧ s.dec.produced.toNat < s.dec.n.toNat ∧ decStep s = .next t) ∨
    (s.dec.phase = .busy ∧ s.dec.n.toNat ≤ s.dec.produced.toNat ∧ decTrailer s = .next t) := by
  unfold decAct decBusy at h
  split at h
  · split at h
    · exact .inr (.inl ⟨by simpa using ‹decide _ = true›, ‹_›, h⟩)
    · exact .inr (.inr ⟨by simpa using ‹decide _ = true›, by omega, h⟩)
  · cases h
    exact .inl ⟨by simpa using ‹¬ decide _ = true›, rfl⟩

/-- Everything a step of ENC can do. -/
theorem encAct_cases {s t : State} (h : encAct s = .next t) :
    (s.enc.phase ≠ .busy ∧ t = s) ∨
    (s.enc.phase = .busy ∧ s.enc.pos.toNat < s.enc.n.toNat ∧ s.enc.inBuf ≠ none ∧ s.enc.outBuf ≠ none ∧
      t = applyPlan s (encPixel s) (planPixel s.enc (encPixel s) (encLast s))) ∨
    (s.enc.phase = .busy ∧ s.enc.n.toNat ≤ s.enc.pos.toNat ∧ s.enc.outBuf ≠ none ∧
      t = { emit (emitOpcodes s (pendingRun s.enc)) endMarker with
        enc := { (emit (emitOpcodes s (pendingRun s.enc)) endMarker).enc with run := 0, phase := .done } }) := by
  unfold encAct encBusy at h
  split at h
  · have hb : s.enc.phase = .busy := by simpa using ‹decide _ = true›
    split at h
    · unfold encStep at h
      split at h
      · cases h
      · split at h
        · cases h
        · cases h
          exact .inr (.inl ⟨hb, ‹_›, ‹_›, ‹_›, rfl⟩)
    · unfold encFinish at h
      split at h
      · cases h
      · cases h
        exact .inr (.inr ⟨hb, by omega, ‹_›, rfl⟩)
  · cases h
    exact .inl ⟨by simpa using ‹¬ decide _ = true›, rfl⟩

end Sys2Proof.Machine
end

