-- ==== Sys2Proof/Laws/Select.lean ====
section
/-!
SUPPORT. The encoder's selection, one lemma per branch of 41_encoder.md R122.
-/

namespace Sys2Proof.Machine

theorem selectOpcode_hit {c : Cache} {prev px : Pixel} (h : cacheRead c (pixelHash px) = px) :
    selectOpcode c prev px = (.index (pixelHash px), c) := by
  rw [selectOpcode, if_pos h]

theorem selectOpcode_miss {c : Cache} {prev px : Pixel} (h : cacheRead c (pixelHash px) ≠ px) :
    selectOpcode c prev px = (differOpcode prev px, cacheWrite c px) := by
  rw [selectOpcode, if_neg h]

theorem differOpcode_rgba {prev px : Pixel} (h : px.a ≠ prev.a) :
    differOpcode prev px = .rgba px.r px.g px.b px.a := by
  rw [differOpcode, if_pos h]

theorem differOpcode_diff {prev px : Pixel} (h : px.a = prev.a)
    (hd : fitsDiff (delta px.r prev.r) (delta px.g prev.g) (delta px.b prev.b) = true) :
    differOpcode prev px = .diff (delta px.r prev.r) (delta px.g prev.g) (delta px.b prev.b) := by
  simp only [differOpcode, h, hd, ne_eq, not_true_eq_false, if_false, if_true]

theorem differOpcode_luma {prev px : Pixel} (h : px.a = prev.a)
    (hd : ¬ fitsDiff (delta px.r prev.r) (delta px.g prev.g) (delta px.b prev.b) = true)
    (hl : fitsLuma (delta px.r prev.r) (delta px.g prev.g) (delta px.b prev.b) = true) :
    differOpcode prev px = .luma (delta px.g prev.g) (delta px.r prev.r - delta px.g prev.g)
      (delta px.b prev.b - delta px.g prev.g) := by
  simp only [differOpcode, h, ne_eq, not_true_eq_false, if_false, if_neg hd, hl, if_true]

theorem differOpcode_rgb {prev px : Pixel} (h : px.a = prev.a)
    (hd : ¬ fitsDiff (delta px.r prev.r) (delta px.g prev.g) (delta px.b prev.b) = true)
    (hl : ¬ fitsLuma (delta px.r prev.r) (delta px.g prev.g) (delta px.b prev.b) = true) :
    differOpcode prev px = .rgb px.r px.g px.b := by
  simp only [differOpcode, h, ne_eq, not_true_eq_false, if_false, if_neg hd, if_neg hl]

theorem planPixel_run {e : Enc} {px : Pixel} (h : px = e.prev) (last : Bool) : planPixel e px last = planRun e last := by
  rw [planPixel, if_pos h]

theorem planPixel_differ {e : Enc} {px : Pixel} (h : px ≠ e.prev) (last : Bool) :
    planPixel e px last =
      ⟨pendingRun e ++ [(selectOpcode e.cache e.prev px).1], 0, (selectOpcode e.cache e.prev px).2⟩ := by
  simp only [planPixel, if_neg h]

theorem planRun_emit {e : Enc} {last : Bool} (h : e.run.toNat + 1 = 62 ∨ last = true) :
    planRun e last = ⟨[.run (e.run.toNat + 1)], 0, e.cache⟩ := by
  simp only [planRun, if_pos h]

theorem planRun_extend {e : Enc} {last : Bool} (h : ¬ (e.run.toNat + 1 = 62 ∨ last = true)) :
    planRun e last = ⟨[], e.run.toNat + 1, e.cache⟩ := by
  simp only [planRun, if_neg h]

end Sys2Proof.Machine
end

