-- ==== Sys2Proof/Laws/Start.lean ====
section
/-!
SUPPORT. What the arithmetic of the units computes, said once as numbers: job starts, the header's integers, the channel
sums, the ranges of the deltas, the RUN byte; and which step a busy engine takes.
-/

namespace Sys2Proof.Machine

/-! ## Numbers -/

theorem toNat_ofNat64 {x : Nat} (h : x < 2 ^ 64) : (BitVec.ofNat 64 x).toNat = x := by
  rw [BitVec.toNat_ofNat]
  exact Nat.mod_eq_of_lt h

theorem inRange_iff {lo hi z : Int} : inRange lo hi z = true ↔ lo ≤ z ∧ z ≤ hi := by
  simp [inRange]

theorem byteOfInt_toNat (z : Int) : ((byteOfInt z).toNat : Int) = z % 256 := by
  simp only [byteOfInt, BitVec.toNat_ofInt]
  omega

/-- `width * height` fits 64 bits (10_state.md R27). -/
theorem pixels_lt (w h : Word32) : w.toNat * h.toNat < 2 ^ 64 := by
  have hw := w.isLt
  have hh := h.isLt
  calc w.toNat * h.toNat ≤ (2 ^ 32 - 1) * (2 ^ 32 - 1) := Nat.mul_le_mul (by omega) (by omega)
    _ < 2 ^ 64 := by norm_num

/-- `N` as a number (40_shared.md R109). -/
theorem pixelCount_toNat {cfg : Config} (hc : 64 ≤ cfg.counterWidth) (w h : Word32) :
    (pixelCount cfg w h).toNat = w.toNat * h.toNat :=
  counter_wide hc (pixels_lt w h)

/-- BODY_END as a number (10_state.md R31). -/
theorem bodyEndOf_toNat {cfg : Config} (hc : 64 ≤ cfg.counterWidth) (l : Word64) :
    (bodyEndOf cfg l).toNat = max 14 (l.toNat - 8) := by
  have := l.isLt
  exact counter_wide hc (by omega)

/-- L is DEC_IN_LEN (10_state.md R31). -/
theorem counter_word {cfg : Config} (hc : 64 ≤ cfg.counterWidth) (l : Word64) : counter cfg l.toNat = l :=
  BitVec.eq_of_toNat_eq (counter_wide hc l.isLt)

/-- What START clears, in the terms of the claims. -/
theorem decClear_eq {s : State} (h : s.dec.inLen.toNat < 2 ^ s.cfg.counterWidth) :
    decClear s = { s with dec := decStarted s.dec } := by
  have e : counter s.cfg s.dec.inLen.toNat = s.dec.inLen := BitVec.eq_of_toNat_eq (counter_toNat_of_lt h s.dec.inLen.isLt)
  simp only [decClear, e]
  rfl

/-- Reading a big-endian word back (20_memory.md R54). -/
theorem be32_bytes (w : Word32) :
    be32 (w.extractLsb' 24 8) (w.extractLsb' 16 8) (w.extractLsb' 8 8) (w.extractLsb' 0 8) = w := by
  apply BitVec.eq_of_toNat_eq
  simp only [be32, BitVec.toNat_ofNat, BitVec.extractLsb'_toNat, Nat.shiftRight_eq_div_pow]
  have := w.isLt
  omega

@[simp] theorem headerPack_length (w h : Word32) (c cs : Byte) : (headerPack w h c cs).length = 14 := rfl

theorem encConfigLegal_iff (e : Enc) :
    encConfigLegal e = true ↔ (e.channels = 3 ∨ e.channels = 4) ∧ (e.colorspace = 0 ∨ e.colorspace = 1) := by
  simp [encConfigLegal]

/-! ## Channel sums (42_decoder.md R170) -/

theorem chan_some {p : DeltaOverflow} {v : Int} (h : p = .wrap ∨ (0 ≤ v ∧ v ≤ 255)) : chan p v = some (byteOfInt v) := by
  unfold chan
  split
  · rfl
  · rcases h with rfl | h
    · rfl
    · exact absurd (inRange_iff.2 h) ‹_›

theorem chan_none {v : Int} (h : ¬ (0 ≤ v ∧ v ≤ 255)) : chan .error v = none := by
  unfold chan
  rw [if_neg (by rwa [inRange_iff])]

/-- The deltas make a pixel under `wrap`, and under `error` where the sums fit. -/
theorem addDeltas_some {p : DeltaOverflow} {prev : Pixel} {dr dg db : Int} (h : p = .wrap ∨ SumsFit prev dr dg db) :
    ∃ px, addDeltas p prev dr dg db = some px ∧ DeltaPixel prev px dr dg db := by
  have h1 := chan_some (p := p) (v := prev.r.toNat + dr) (h.imp_right (·.1))
  have h2 := chan_some (p := p) (v := prev.g.toNat + dg) (h.imp_right (·.2.1))
  have h3 := chan_some (p := p) (v := prev.b.toNat + db) (h.imp_right (·.2.2))
  exact ⟨⟨byteOfInt _, byteOfInt _, byteOfInt _, prev.a⟩, by simp only [addDeltas, h1, h2, h3],
    byteOfInt_toNat _, byteOfInt_toNat _, byteOfInt_toNat _, rfl⟩

/-- Under `error` a sum that does not fit makes no pixel. -/
theorem addDeltas_none {prev : Pixel} {dr dg db : Int} (h : ¬ SumsFit prev dr dg db) :
    addDeltas .error prev dr dg db = none := by
  have fit : ∀ v, chan .error v ≠ none → 0 ≤ v ∧ v ≤ 255 := fun v hv => by
    by_contra hh
    exact hv (chan_none hh)
  unfold addDeltas
  split
  · rename_i h1 h2 h3
    exact absurd ⟨fit _ (by simp [h1]), fit _ (by simp [h2]), fit _ (by simp [h3])⟩ h
  · rfl

/-! ## The encoder's conditions and the RUN byte -/

theorem fitsDiff_iff (e : Enc) (px : Pixel) :
    fitsDiff (delta px.r e.prev.r) (delta px.g e.prev.g) (delta px.b e.prev.b) = true ↔ DiffApplies e px := by
  simp [fitsDiff, inRange_iff, DiffApplies, deltaR, deltaG, deltaB, delta, and_assoc]

theorem fitsLuma_iff (e : Enc) (px : Pixel) :
    fitsLuma (delta px.r e.prev.r) (delta px.g e.prev.g) (delta px.b e.prev.b) = true ↔ LumaApplies e px := by
  simp [fitsLuma, inRange_iff, LumaApplies, deltaR, deltaG, deltaB, delta, and_assoc]

theorem encode_run {n : Nat} (h : 1 ≤ n) : encode (.run n) = [runByte n] := by
  simp only [encode, runByte, byteOfInt]
  congr 1
  apply BitVec.eq_of_toNat_eq
  simp only [BitVec.toNat_ofInt, BitVec.toNat_ofNat]
  omega

theorem pendingRun_bytes (e : Enc) : (pendingRun e).flatMap encode = flushBytes e := by
  unfold pendingRun flushBytes
  split
  · simp [encode_run (show 1 ≤ e.run.toNat by omega)]
  · rfl

theorem flushBytes_length (e : Enc) : (flushBytes e).length ≤ 1 := by
  unfold flushBytes
  split <;> simp

/-! ## Which step a busy engine takes -/

theorem decAct_opcode {s : State} (h : s.dec.phase = .busy) (hp : s.dec.produced.toNat < s.dec.n.toNat) :
    decAct s = decStep s := by
  simp [decAct, decBusy, h, hp]

theorem decAct_trailer {s : State} (h : s.dec.phase = .busy) (hp : ¬ s.dec.produced.toNat < s.dec.n.toNat) :
    decAct s = decTrailer s := by
  simp [decAct, decBusy, h, hp]

theorem encAct_pixel {s : State} (h : s.enc.phase = .busy) (hp : s.enc.pos.toNat < s.enc.n.toNat) :
    encAct s = encStep s := by
  simp [encAct, encBusy, h, hp]

theorem encAct_finish {s : State} (h : s.enc.phase = .busy) (hp : ¬ s.enc.pos.toNat < s.enc.n.toNat) :
    encAct s = encFinish s := by
  simp [encAct, encBusy, h, hp]

theorem opcodeFits_iff (s : State) (len : Nat) :
    opcodeFits s len = true ↔ s.dec.cursor.toNat + len ≤ s.dec.bodyEnd.toNat := by
  simp [opcodeFits]

end Sys2Proof.Machine
end

