-- ==== Sys2Proof/Laws/Cases.lean ====
section
/-!
SUPPORT. What the engines' compound steps can do, said once: a decoder step while pixels are missing, a pixel step's plan,
and the two job starts.
-/

namespace Sys2Proof.Machine

/-! ## The decoder's opcode step -/

theorem fetchOpcode_decodes {s : State} {base : Nat} {i : Instr} (h : fetchOpcode s base = some i) :
    ∃ rest, decode (fetchWindow s base) = .ok (i, rest) := by
  unfold fetchOpcode at h
  split at h
  · cases h
    exact ⟨_, ‹_›⟩
  · cases h

/-- A RUN that is fetched is at least 1 long (30_encoding.md R81). -/
theorem fetchOpcode_run_pos {s : State} {base n : Nat} (h : fetchOpcode s base = some (.run n)) : 1 ≤ n := by
  obtain ⟨rest, h⟩ := fetchOpcode_decodes h
  rcases decode_cases h with ⟨_, _, _, _, h, _⟩ | ⟨_, _, _, h, _⟩ | ⟨_, _, h, _⟩ | ⟨_, _, h, _⟩ | ⟨_, _, _, h, _⟩ |
    ⟨_, _, _, _, h, _⟩
  all_goals simp [decodeDiff, decodeRun] at h
  omega

/-- Everything DEC's step can do while pixels are missing: an error at the cursor, or an opcode of `len` bytes that writes
the pixel `px` some `k` times. -/
theorem decAct_opcode_cases {s t : State} (hb : s.dec.phase = .busy) (hp : s.dec.produced.toNat < s.dec.n.toNat)
    (h : decAct s = .next t) :
    (∃ e, t = raiseErr s e s.dec.cursor) ∨
    ∃ len k px, (len = 1 ∨ len = 2 ∨ len = 4 ∨ len = 5) ∧ s.dec.cursor.toNat + len ≤ s.dec.bodyEnd.toNat ∧
      1 ≤ k ∧ s.dec.produced.toNat + k ≤ s.dec.n.toNat ∧ t = advance (setPrev (putPixels s px k) px) len := by
  rw [decAct_opcode hb hp] at h
  rcases decStep_cases h with ⟨_, rfl⟩ | ⟨base, i, hc, _, hf, he⟩
  · exact .inl ⟨_, rfl⟩
  rcases exec_cases he with ⟨e, rfl⟩ | ⟨px, _, hfit, rfl⟩ | ⟨n, rfl, _, rfl⟩
  · exact .inl ⟨_, rfl⟩
  · refine .inr ⟨instrLength i, 1, px, instrLength_cases i, ?_, le_refl _, hp, rfl⟩
    rcases Nat.lt_or_ge (instrLength i) 2 with hl | hl
    · omega
    · exact (opcodeFits_iff _ _).1 (hfit hl)
  · refine .inr ⟨1, min n (missing s.dec), s.dec.prev, .inl rfl, by omega, ?_, ?_, ?_⟩
    · have := fetchOpcode_run_pos hf
      simp only [missing]
      omega
    · simp only [missing]
      omega
    · unfold advance setPrev
      rw [putPixels_frame]

/-! ## The encoder's pixel step -/

/-- A pixel step's plan: the run grows and nothing is emitted, or the run ends and the pending pixels pay for the bytes
(20_memory.md R63). -/
theorem planPixel_cases (e : Enc) (px : Pixel) (last : Bool) :
    ((planPixel e px last).run = e.run.toNat + 1 ∧ (planPixel e px last).opcodes = [] ∧ e.run.toNat + 1 ≠ 62 ∧
      last = false) ∨
    ((planPixel e px last).run = 0 ∧ ((planPixel e px last).opcodes.flatMap encode).length ≤ 5 * e.run.toNat + 5) := by
  by_cases hpx : px = e.prev
  · rw [planPixel_run hpx]
    by_cases h : e.run.toNat + 1 = 62 ∨ last = true
    · rw [planRun_emit h]
      exact .inr ⟨rfl, by simp [instrLength]⟩
    · rw [planRun_extend h]
      exact .inl ⟨rfl, rfl, fun he => h (.inl he), by simpa using fun he => h (.inr he)⟩
  · rw [planPixel_differ hpx]
    refine .inr ⟨rfl, ?_⟩
    have hl := instrLength_cases (selectOpcode e.cache e.prev px).1
    have hf := flushBytes_length e
    have hz : e.run.toNat = 0 → flushBytes e = [] := fun h => by simp [flushBytes, h]
    simp only [List.flatMap_append, List.length_append, List.flatMap_cons, List.flatMap_nil, List.append_nil,
      encode_length, pendingRun_bytes]
    rcases Nat.eq_zero_or_pos e.run.toNat with h0 | h0
    · rw [hz h0, List.length_nil]
      omega
    · omega

/-! ## Job starts -/

/-- Everything an encode START can do when it answers a next state: the configuration is admitted and the job is
launched. -/
theorem encStart_cases {s t : State} (h : encStart s = .next t) :
    (s.dec.phase = .busy → enginesOverlap s = false) ∧ EncAdmitted s ∧ t = encLaunch s := by
  unfold encStart at h
  split at h
  · cases h
  split at h
  · cases h
  split at h
  · cases h
  split at h
  · cases h
  split at h
  · cases h
  rename_i h1 h3 h4 h5 h6
  cases h
  obtain ⟨hc, hs⟩ := (encConfigLegal_iff s.enc).1 (by simpa using h3)
  simp only [encJobPixels, encCapacity, not_lt, Decidable.not_not, gt_iff_lt] at h4 h5 h6
  exact ⟨fun hd => by simpa [decBusy, hd] using h1, ⟨hc, hs, h4, h5, h6⟩, rfl⟩

/-- The three outcomes of a header that has been unpacked, by its channel count and its size (42_decoder.md R160). -/
theorem decAccept_badChannels {s : State} (h3 : s.dec.channels ≠ 3) (h4 : s.dec.channels ≠ 4) :
    decAccept s = .next (raiseErr s .badChannels 12) := by
  rw [decAccept, if_pos ⟨h3, h4⟩]

theorem decAccept_refused {s : State} (hc : s.dec.channels = 3 ∨ s.dec.channels = 4)
    (h : s.cfg.maxPixels < decJobPixels s.dec ∨ bufSize s.dec.outBuf < decJobPixels s.dec * s.dec.channels.toNat) :
    ∃ r, decAccept s = .refused r := by
  rw [decAccept, if_neg (by rcases hc with hc | hc <;> simp [hc])]
  by_cases hx : decJobPixels s.dec > s.cfg.maxPixels
  · exact ⟨_, if_pos hx⟩
  · exact ⟨_, by rw [if_neg hx, if_pos (h.resolve_left hx)]⟩

theorem decAccept_launch {s : State} (hc : s.dec.channels = 3 ∨ s.dec.channels = 4)
    (hx : decJobPixels s.dec ≤ s.cfg.maxPixels) (hz : decJobPixels s.dec * s.dec.channels.toNat ≤ bufSize s.dec.outBuf) :
    decAccept s = .next (decLaunch s) := by
  rw [decAccept, if_neg (by rcases hc with hc | hc <;> simp [hc]), if_neg (by omega), if_neg (by omega)]

/-- Everything a decode START can do when it answers a next state: an error in the header, or the header is accepted and
the job is launched. -/
theorem decStart_cases {s t : State} (h : decStart s = .next t) :
    (s.enc.phase = .busy → enginesOverlap s = false) ∧
    ((∃ e off u, (u = decClear s ∨ ∃ hdr, u = setHeaderRegs (decClear s) hdr) ∧ t = raiseErr u e off) ∨
     ∃ base hdr, s.dec.inBuf = some base ∧ hdr = readHeader s.mem base ∧ 14 ≤ (counter s.cfg s.dec.inLen.toNat).toNat ∧
      readBytes s.mem base 4 = magic ∧ (hdr.channels = 3 ∨ hdr.channels = 4) ∧
      hdr.width.toNat * hdr.height.toNat ≤ s.cfg.maxPixels ∧
      hdr.width.toNat * hdr.height.toNat * hdr.channels.toNat ≤ bufSize s.dec.outBuf ∧
      t = decLaunch (setHeaderRegs (decClear s) hdr)) := by
  unfold decStart at h
  split at h
  · cases h
  rename_i h1
  refine ⟨fun he => by simpa [encBusy, he] using h1, ?_⟩
  unfold decHeader at h
  split at h
  · cases h
    exact .inl ⟨_, _, _, .inl rfl, rfl⟩
  rename_i h3
  split at h
  · cases h
  rename_i base hbase
  split at h
  · cases h
    exact .inl ⟨_, _, _, .inl rfl, rfl⟩
  rename_i h4
  dsimp only [decAccept] at h
  split at h
  · cases h
    exact .inl ⟨_, _, _, .inr ⟨_, rfl⟩, rfl⟩
  rename_i h5
  split at h
  · cases h
  split at h
  · cases h
  rename_i h6 h7
  cases h
  refine .inr ⟨base, _, hbase, rfl, by simpa using h3, by simpa using h4, ?_, by simpa [decJobPixels] using h6,
    by simpa [decJobPixels] using h7, rfl⟩
  by_contra hc
  exact h5 (by simpa using hc)

end Sys2Proof.Machine
end

