-- ==== Sys2Proof/Laws/Bus.lean ====
section
/-!
SUPPORT. What the host's actions can do, said once: register and handle writes, bus accesses, byte accesses, and the host's
turn.
-/

namespace Sys2Proof.Machine

/-! ## Register and handle writes -/

theorem engineBusy_enc {s : State} : engineBusy s .enc = true ↔ s.enc.phase = .busy := by
  simp [engineBusy, encBusy]

theorem engineBusy_dec {s : State} : engineBusy s .dec = true ↔ s.dec.phase = .busy := by
  simp [engineBusy, decBusy]

/-- Everything a register write can do: the engine is not BUSY and the register takes the value. -/
theorem writeReg_cases {s t : State} {r : Reg} {v : Word64} (h : writeReg s r v = .next t) :
    engineBusy s (regEngine r) = false ∧ storeReg s r v = .next t := by
  unfold writeReg at h
  split at h
  · cases h
  rename_i hb
  exact ⟨by simpa using hb, h⟩

theorem writeReg_eq {s : State} {r : Reg} (v : Word64) (h : engineBusy s (regEngine r) = false) :
    writeReg s r v = storeReg s r v := by
  simp [writeReg, h]

/-- Everything a handle write can do. -/
theorem setBuffer_cases {s t : State} {b : BufName} {buf : Buffer} (h : setBuffer s b buf = .next t) :
    engineBusy s (bufEngine b) = false ∧ t = storeBuffer s b buf := by
  unfold setBuffer at h
  split at h
  · cases h
  rename_i hb
  cases h
  exact ⟨by simpa using hb, rfl⟩

theorem setBuffer_eq {s : State} {b : BufName} (buf : Buffer) (h : engineBusy s (bufEngine b) = false) :
    setBuffer s b buf = .next (storeBuffer s b buf) := by
  simp [setBuffer, h]

/-! ## Bus accesses -/

/-- The first entry of an address is the register mapped there. -/
theorem mappedReg_first {cfg : Config} {l1 l2 : List (HostReg × Nat)} {hr : HostReg} {a : Nat}
    (h : cfg.regMap = l1 ++ (hr, a) :: l2) (h1 : ∀ e ∈ l1, e.2 ≠ a) : mappedReg cfg a = some hr := by
  have e : l1.find? (fun e => decide (e.2 = a)) = none := by
    simpa [List.find?_eq_none] using h1
  simp [mappedReg, h, List.find?_append, e]

/-- An address that no entry lists maps no register. -/
theorem mappedReg_none {cfg : Config} {a : Nat} (h : ∀ e ∈ cfg.regMap, e.2 ≠ a) : mappedReg cfg a = none := by
  have e : cfg.regMap.find? (fun e => decide (e.2 = a)) = none := by
    simpa [List.find?_eq_none] using h
  simp [mappedReg, e]

/-- Everything a bus write can do. -/
theorem busWrite_cases {s t : State} {a : Nat} {v : Word64} (h : busWrite s a v = .next t) :
    (∃ r, mappedReg s.cfg a = some (.num r) ∧ writeReg s r v = .next t) ∨
    (∃ b, mappedReg s.cfg a = some (.handle b) ∧ setBuffer s b (Config.handleOfWord v) = .next t) ∨
    (mappedReg s.cfg a = none ∧ t = s) := by
  unfold busWrite at h
  split at h
  · exact .inl ⟨_, ‹_›, h⟩
  · exact .inr (.inl ⟨_, ‹_›, h⟩)
  · cases h
    exact .inr (.inr ⟨‹_›, rfl⟩)

/-- A bus read changes what the host read and the counter of free values, and nothing else. -/
theorem busRead_frame (s : State) (a : Nat) :
    busRead s a = { s with hostData := (busRead s a).hostData, freeCount := (busRead s a).freeCount } := by
  unfold busRead
  split <;> rfl

/-! ## Byte accesses -/

/-- Everything a host's byte write can do. -/
theorem hostWrite_cases {s t : State} {a : Nat} {v : Byte} (h : hostWrite s a v = .next t) :
    (s.enc.phase = .busy → covers s.enc.inBuf a = false ∧ covers s.enc.outBuf a = false) ∧
    (s.dec.phase = .busy → covers (decInBuffer s.dec) a = false ∧ covers s.dec.outBuf a = false) ∧
    t = { s with mem := writeByte s.mem a v } := by
  unfold hostWrite at h
  split at h
  · cases h
  split at h
  · cases h
  rename_i h1 h2
  cases h
  exact ⟨fun he => by simpa [encBusy, he] using h1, fun hd => by simpa [decBusy, hd] using h2, rfl⟩

/-- Everything a host's byte read can do. -/
theorem hostRead_cases {s t : State} {a : Nat} (h : hostRead s a = .next t) :
    (s.enc.phase = .busy → covers s.enc.outBuf a = false) ∧ (s.dec.phase = .busy → covers s.dec.outBuf a = false) ∧
    t = { s with hostData := (readByte s.mem a).setWidth 64 } := by
  unfold hostRead at h
  split at h
  · cases h
  split at h
  · cases h
  rename_i h1 h2
  cases h
  exact ⟨fun he => by simpa [encBusy, he] using h1, fun hd => by simpa [decBusy, hd] using h2, rfl⟩

/-! ## Turns -/

/-- Everything a step of the machine can do: nothing, or the turn of one agent. -/
theorem step_cases {s t : State} (h : step s = .next t) :
    t = popTurn s ∨ encAct (popTurn s) = .next t ∨ decAct (popTurn s) = .next t ∨
    ∃ a rest, s.host = a :: rest ∧ hostDo a { popTurn s with host := rest } = .next t := by
  unfold step agentAct at h
  split at h
  · unfold hostAct at h
    split at h
    · cases h
      exact .inl rfl
    · exact .inr (.inr (.inr ⟨_, _, ‹_›, h⟩))
  · exact .inr (.inl h)
  · exact .inr (.inr (.inl h))
  · cases h
    exact .inl rfl

end Sys2Proof.Machine
end

