-- ==== Sys2Proof/Laws/PerInstr.lean ====
section
/-!
SUPPORT. Statements about every opcode as syntax, one lemma per constructor. FirstByteLength: the first byte of a
well-formed opcode settles how many bytes the opcode has (30_encoding.md R82).
-/

namespace Sys2Proof.Laws.FirstByteLength

/-- The opcode has as many bytes as its first byte says. -/
def Statement (i : Instr) : Prop := i.wf = true → (encode i).head?.map opcodeLength = some (encode i).length

theorem rgba (r g b a : Byte) : Statement (.rgba r g b a) := fun _ => rfl

theorem rgb (r g b : Byte) : Statement (.rgb r g b) := fun _ => rfl

theorem index (k : Slot) : Statement (.index k) := by
  revert k
  unfold Statement
  decide +kernel

theorem diff (dr dg db : Int) : Statement (.diff dr dg db) := by
  intro h
  simp only [Instr.wf, inRange, Bool.and_eq_true, decide_eq_true_eq] at h
  obtain ⟨⟨⟨h1, h2⟩, h3, h4⟩, h5, h6⟩ := h
  interval_cases dr <;> interval_cases dg <;> interval_cases db <;> rfl

theorem luma (dg drDg dbDg : Int) : Statement (.luma dg drDg dbDg) := by
  intro h
  simp only [Instr.wf, inRange, Bool.and_eq_true, decide_eq_true_eq] at h
  obtain ⟨⟨⟨h1, h2⟩, -⟩, -⟩ := h
  interval_cases dg <;> rfl

theorem run (n : Nat) : Statement (.run n) := by
  intro h
  simp only [Instr.wf, Bool.and_eq_true, decide_eq_true_eq] at h
  obtain ⟨h1, h2⟩ := h
  interval_cases n <;> rfl

end Sys2Proof.Laws.FirstByteLength
end

