-- ==== Sys2Proof/Laws/Run.lean ====
section
/-!
SUPPORT. Runs of several steps: how they compose, and the one induction that carries a property along them.
-/

namespace Sys2Proof.Machine

theorem reaches_zero (s : State) : Reaches 0 s s := rfl

/-- One step, then the rest of the run. -/
theorem run_succ (k : Nat) (s : State) :
    Host.Core.run Sys2Proof.core (k + 1) s =
      match step s with
      | .next t => Host.Core.run Sys2Proof.core k t
      | .fault r => .fault r
      | .refused r => .refused r := by
  generalize h : step s = o
  have h : Sys2Proof.core.step s = o := h
  cases o <;> simp only [Host.Core.run, h]

theorem reaches_succ {k : Nat} {s t u : State} (h : step s = .next t) (hr : Reaches k t u) : Reaches (k + 1) s u := by
  unfold Reaches
  rw [run_succ, h]
  exact hr

theorem reaches_cases {k : Nat} {s u : State} (h : Reaches (k + 1) s u) : ∃ t, step s = .next t ∧ Reaches k t u := by
  unfold Reaches at h
  rw [run_succ] at h
  split at h
  · exact ⟨_, ‹_›, h⟩
  · cases h
  · cases h

theorem reaches_trans {j k : Nat} {s t u : State} (h : Reaches j s t) (h' : Reaches k t u) : Reaches (j + k) s u := by
  induction j generalizing s with
  | zero =>
    have e : s = t := by cases h; rfl
    rw [Nat.zero_add, e]
    exact h'
  | succ j ih =>
    obtain ⟨m, hm, hr⟩ := reaches_cases h
    rw [Nat.succ_add]
    exact reaches_succ hm (ih hr)

/-- What every step keeps holds along every run. -/
theorem reaches_keeps {P : State → Prop} (step_keeps : ∀ s t, P s → step s = .next t → P t) {k : Nat} {s t : State}
    (h : Reaches k s t) (hs : P s) : P t := by
  induction k generalizing s with
  | zero =>
    cases h
    exact hs
  | succ k ih =>
    obtain ⟨m, hm, hr⟩ := reaches_cases h
    exact ih hr (step_keeps s m hs hm)

end Sys2Proof.Machine
end

