-- ==== Sys2Proof/Tests/Slice0.lean ====
section
/-!
SUPPORT. Tests of single steps and words, whose expected values are those of spec/95_test_vectors.md and the rules'
examples, and for each statement with hypotheses a witness that meets them all.
-/

namespace Sys2Proof.Tests
open Sys2Proof.Machine

set_option Elab.async false

/-! ## Well-formedness: an ill-formed term for each check -/

theorem test_wf_diff_red : (Instr.diff (-3) 0 0).wf = false ∧ (Instr.diff 2 0 0).wf = false := by decide
theorem test_wf_diff_green : (Instr.diff 0 (-3) 0).wf = false ∧ (Instr.diff 0 2 0).wf = false := by decide
theorem test_wf_diff_blue : (Instr.diff 0 0 (-3)).wf = false ∧ (Instr.diff 0 0 2).wf = false := by decide
theorem test_wf_luma_green : (Instr.luma (-33) 0 0).wf = false ∧ (Instr.luma 32 0 0).wf = false := by decide
theorem test_wf_luma_red : (Instr.luma 0 (-9) 0).wf = false ∧ (Instr.luma 0 8 0).wf = false := by decide
theorem test_wf_luma_blue : (Instr.luma 0 0 (-9)).wf = false ∧ (Instr.luma 0 0 8).wf = false := by decide
theorem test_wf_run : (Instr.run 0).wf = false ∧ (Instr.run 63).wf = false := by decide

/-! ## Decoding: words written out from the encodings of 30_encoding.md -/

/-- R80: `11111111 r g b a` (95_test_vectors.md L1.5). -/
theorem test_decode_rgba : decode [0b11111111, 10, 20, 30, 128] = .ok (.rgba 10 20 30 128, []) := by decide
/-- R79: `11111110 r g b` (L1.4). -/
theorem test_decode_rgb : decode [0b11111110, 10, 20, 30] = .ok (.rgb 10 20 30, []) := by decide
/-- R75: `00 kkkkkk`, k = 53 = 110101. -/
theorem test_decode_index : decode [0b00110101] = .ok (.index 53, []) := by decide
/-- R76: `01 rr gg bb`, the fields 0, 3, 1 of R131's example `4D`. -/
theorem test_decode_diff : decode [0b01001101] = .ok (.diff (-2) 1 (-1), []) := by decide
/-- R77: `10 gggggg rrrr bbbb`, R132's example `A3 76`. -/
theorem test_decode_luma : decode [0b10100011, 0b01110110] = .ok (.luma 3 (-1) (-2), []) := by decide
/-- R78: `11 nnnnnn`, payload 61. -/
theorem test_decode_run : decode [0b11111101] = .ok (.run 62, []) := by decide
/-- The table's numbering: the first byte is bits 7..0. -/
theorem test_decode_table_word :
    decodeTableWord 40 0x801E140AFF = some (.rgba 10 20 30 128) ∧ decodeTableWord 32 0x1E140AFE = some (.rgb 10 20 30) ∧
    decodeTableWord 8 0x35 = some (.index 53) ∧ decodeTableWord 8 0x4D = some (.diff (-2) 1 (-1)) ∧
    decodeTableWord 16 0x76A3 = some (.luma 3 (-1) (-2)) ∧ decodeTableWord 8 0xFD = some (.run 62) := by decide
/-- The encoder's formulas of R87 on the same opcodes. -/
theorem test_encode_words :
    encode (.rgba 10 20 30 128) = [0xFF, 0x0A, 0x14, 0x1E, 0x80] ∧ encode (.rgb 10 20 30) = [0xFE, 0x0A, 0x14, 0x1E] ∧
    encode (.index 53) = [0x35] ∧ encode (.diff (-2) 1 (-1)) = [0x4D] ∧ encode (.luma 3 (-1) (-2)) = [0xA3, 0x76] ∧
    encode (.run 62) = [0xFD] := by decide

/-! ## The shared units -/

/-- L2.1. -/
theorem test_hash :
    pixelHash ⟨0, 0, 0, 255⟩ = 53 ∧ pixelHash ⟨255, 255, 255, 255⟩ = 38 ∧ pixelHash ⟨10, 20, 30, 255⟩ = 9 ∧
    pixelHash ⟨40, 60, 20, 128⟩ = 48 := by decide
/-- R107's example. -/
theorem test_header_pack :
    headerPack 800 600 3 1 = [0x71, 0x6F, 0x69, 0x66, 0x00, 0x00, 0x03, 0x20, 0x00, 0x00, 0x02, 0x58, 0x03, 0x01] := by
  decide

/-! ## Small states -/

/-- What a test looks at. -/
def nextState (o : Host.Outcome State Fault Refusal) : Option State :=
  match o with
  | .next t => some t
  | _ => none

def isNext (o : Host.Outcome State Fault Refusal) : Bool := (nextState o).isSome

theorem exists_of_isNext {o : Host.Outcome State Fault Refusal} (h : isNext o = true) : ∃ t, o = .next t := by
  cases o with
  | next t => exact ⟨t, rfl⟩
  | fault => cases h
  | refused => cases h

/-- The host has placed `bs` as DEC_IN at 0 and given DEC an output buffer of `size` bytes at 200. -/
def decHost (bs : List Byte) (size : Nat) : State :=
  { State.reset with
    mem := writeBytes [] 0 bs
    dec := { State.reset.dec with
      inBuf := some 0, inLen := BitVec.ofNat 64 bs.length, outBuf := some ⟨200, size⟩ } }

/-- DEC right after START on the stream of a `w x 1` image of four channels with this body and tail. -/
def decReady (w : Word32) (body tail : List Byte) : State :=
  (nextState (decStart (decHost (headerPack w 1 4 0 ++ body ++ tail) (4 * w.toNat)))).getD State.reset

/-- The host has placed the pixel bytes `bs` of a `w x 1` image as ENC_IN at 0, with the least ENC_OUT at 200. -/
def encHost (c : Byte) (w : Word32) (bs : List Byte) : State :=
  { State.reset with
    mem := writeBytes [] 0 bs
    enc := { State.reset.enc with
      inBuf := some ⟨0, bs.length⟩, outBuf := some ⟨200, 22 + 5 * w.toNat⟩, width := w, height := 1, channels := c } }

/-- ENC right after START on that image. -/
def encReady (c : Byte) (w : Word32) (bs : List Byte) : State :=
  (nextState (encStart (encHost c w bs))).getD State.reset

/-- ENC in that job with `run` pixels pending. -/
def encPending (c : Byte) (w : Word32) (bs : List Byte) (run : BitVec 6) : State :=
  let s := encReady c w bs
  { s with enc := { s.enc with run := run } }

/-- ENC right after START on a one-pixel image, but with PREV at `prev`. -/
def encFrom (prev : Pixel) (bs : List Byte) : State :=
  let s := encReady 4 1 bs
  { s with enc := { s.enc with prev := prev } }

/-- The same host on a platform with counters of 32 bits that admits 2^32 - 1 pixels. -/
def narrow (s : State) : State := { s with cfg := { s.cfg with counterWidth := 32, maxPixels := 2 ^ 32 - 1 } }

/-- Phase, cursor, pixels produced, PREV and the first output pixel after a decoder step. -/
def decView (o : Host.Outcome State Fault Refusal) : Option (DecPhase × Nat × Nat × Pixel × List Byte) :=
  (nextState o).map fun t =>
    (t.dec.phase, t.dec.cursor.toNat, t.dec.produced.toNat, t.dec.prev, readBytes t.mem (bufBase t.dec.outBuf) 4)

/-- DEC_STATUS and DEC_ERR_OFFSET. -/
def decReport (o : Host.Outcome State Fault Refusal) : Option (Nat × Nat) :=
  (nextState o).map fun t => ((decStatus t).toNat, t.dec.errOffset.toNat)

/-- The bytes an encoder step emitted, ENC.RUN and ENC.POS after it. -/
def encView (s : State) : Option (List Byte × Nat × Nat) :=
  (nextState (encAct s)).map fun t =>
    (readBytes t.mem (bufBase s.enc.outBuf + s.enc.outLen.toNat) (t.enc.outLen.toNat - s.enc.outLen.toNat),
      t.enc.run.toNat, t.enc.pos.toNat)

/-! ## One opcode, from the state that withFetchWord leaves (95_test_vectors.md L2.4) -/

theorem test_rgba_step :
    decView (step (State.reset.withFetchWord 40 0x801E140AFF)) = some (.busy, 19, 1, ⟨10, 20, 30, 128⟩, [10, 20, 30, 128]) := by
  decide +kernel
theorem test_rgb_step :
    decView (step (State.reset.withFetchWord 32 0x1E140AFE)) = some (.busy, 18, 1, ⟨10, 20, 30, 255⟩, [10, 20, 30, 255]) := by
  decide +kernel
theorem test_index_step :
    decView (step (State.reset.withFetchWord 8 0x05)) = some (.busy, 15, 1, ⟨0, 0, 0, 255⟩, [0, 0, 0, 255]) := by
  decide +kernel
theorem test_diff_step_wraps :
    decView (step (State.reset.withFetchWord 8 0x40)) =
      some (.busy, 15, 1, ⟨254, 254, 254, 255⟩, [254, 254, 254, 255]) := by
  decide +kernel
theorem test_luma_step :
    decView (step (State.reset.withFetchWord 16 0x76A3)) = some (.busy, 16, 1, ⟨2, 3, 1, 255⟩, [2, 3, 1, 255]) := by
  decide +kernel
theorem test_luma_step_wraps :
    decView (step (State.reset.withFetchWord 16 0x0080)) =
      some (.busy, 16, 1, ⟨216, 224, 216, 255⟩, [216, 224, 216, 255]) := by
  decide +kernel
theorem test_run_step :
    decView (step (State.reset.withFetchWord 8 0xFD)) = some (.busy, 15, 62, ⟨0, 0, 0, 255⟩, [0, 0, 0, 255]) := by
  decide +kernel
/-- R171: a run is clamped to the one missing pixel. -/
theorem test_run_step_clamps :
    decView (decAct (decReady 1 [0xFD] endMarker)) = some (.busy, 15, 1, ⟨0, 0, 0, 255⟩, [0, 0, 0, 255]) := by
  decide +kernel
/-- withFetchWord leaves the state that DecStart leaves on the stream it places. -/
theorem test_withFetchWord_is_started :
    (nextState (decStart (placeStream State.reset 8 0xFD))).map (fun t => (t.dec, t.enc, t.freeCount)) =
      some ((startOnWord State.reset 8 0xFD).dec, (startOnWord State.reset 8 0xFD).enc, 0) := by
  decide +kernel

/-! ## Errors (L2.2, L2.5) -/

theorem test_err_header : decReport (decStart (decHost [0x71, 0x6F, 0x69, 0x66, 0, 0] 4)) = some (0x124, 0) := by
  decide +kernel
theorem test_err_magic :
    decReport (decStart (decHost [0x71, 0x6F, 0x69, 0x67, 0, 0, 0, 1, 0, 0, 0, 1, 5, 0] 4)) = some (0x114, 0) := by
  decide +kernel
theorem test_err_channels : decReport (decStart (decHost (headerPack 1 1 5 0 ++ endMarker) 4)) = some (0x214, 12) := by
  decide +kernel
theorem test_err_underfilled : decReport (decAct (decReady 1 [] [])) = some (0x034, 14) := by decide +kernel
theorem test_err_rgb : decReport (decAct (decReady 1 [0xFE, 0x0A, 0x14] endMarker)) = some (0x324, 14) := by
  decide +kernel
theorem test_err_rgba : decReport (decAct (decReady 1 [0xFF, 0x0A, 0x14, 0x1E] endMarker)) = some (0x224, 14) := by
  decide +kernel
theorem test_err_luma : decReport (decAct (decReady 1 [0xA3] endMarker)) = some (0x424, 14) := by decide +kernel
theorem test_err_marker : decReport (decAct (decReady 0 [] [])) = some (0x314, 14) := by decide +kernel
theorem test_trailer_done : decReport (decAct (decReady 0 [] endMarker)) = some (2, 0) := by decide +kernel

/-! ## The encoder (L2.3) -/

theorem test_enc_start_header :
    (nextState (encStart (encHost 4 1 [0, 0, 0, 255]))).map (fun t => (readBytes t.mem 200 14, t.enc.outLen)) =
      some ([0x71, 0x6F, 0x69, 0x66, 0, 0, 0, 1, 0, 0, 0, 1, 4, 0], 14) := by
  decide +kernel
theorem test_enc_run_last : encView (encReady 4 1 [0, 0, 0, 255]) = some ([0xC0], 0, 1) := by decide +kernel
theorem test_enc_run_pending : encView (encReady 4 2 [0, 0, 0, 255, 1, 0, 0, 255]) = some ([], 1, 1) := by decide +kernel
/-- R110: a hit on the initial cache contents, after (5,5,5,255). -/
theorem test_enc_index : encView (encFrom ⟨5, 5, 5, 255⟩ [0, 0, 0, 255]) = some ([0x35], 0, 1) := by decide +kernel
theorem test_enc_rgb : encView (encReady 4 1 [10, 20, 30, 255]) = some ([0xFE, 0x0A, 0x14, 0x1E], 0, 1) := by
  decide +kernel
theorem test_enc_rgb_no_wrap : encView (encReady 4 1 [255, 0, 0, 255]) = some ([0xFE, 0xFF, 0, 0], 0, 1) := by
  decide +kernel
theorem test_enc_rgba : encView (encReady 4 1 [10, 20, 30, 128]) = some ([0xFF, 0x0A, 0x14, 0x1E, 0x80], 0, 1) := by
  decide +kernel
theorem test_enc_diff : encView (encReady 4 1 [1, 1, 1, 255]) = some ([0x7F], 0, 1) := by decide +kernel
theorem test_enc_luma : encView (encReady 4 1 [2, 3, 1, 255]) = some ([0xA3, 0x76], 0, 1) := by decide +kernel
/-- R138: six bytes in one step. -/
theorem test_enc_six_bytes : encView (encPending 4 1 [1, 2, 3, 4] 3) = some ([0xC2, 0xFF, 1, 2, 3, 4], 0, 1) := by
  decide +kernel
theorem test_enc_cap : encView (encPending 4 2 [0, 0, 0, 255, 0, 0, 0, 255] 61) = some ([0xFD], 0, 1) := by decide +kernel
theorem test_enc_finish : encView (encReady 4 0 []) = some ([0, 0, 0, 0, 0, 0, 0, 1], 0, 0) := by decide +kernel

/-! ## The host -/

/-- R34: a configuration write, then R216: the same write to a busy engine. -/
theorem test_host_write :
    (nextState (writeReg State.reset .encWidth 7)).map (fun t => t.enc.width) = some 7 ∧
    isNext (writeReg (encReady 4 1 [0, 0, 0, 255]) .encWidth 7) = false := by decide +kernel

/-- R58: a bus read is the read of the register mapped there. -/
theorem test_bus_read :
    (busRead { State.reset with cfg := { Config.default with regMap := [(.num .encCtrl, 7), (.num .encWidth, 8)] }, enc :=
      { State.reset.enc with width := 9 } } 8).hostData = 9 := by decide +kernel
/-- R7: a counter of four bits keeps the low four. -/
theorem test_counter_width : (counter { Config.default with counterWidth := 4 } 17).toNat = 1 := by decide
/-- R7: MAX_PIXELS bounds width * height, not what a counter of 32 bits keeps of it. -/
theorem test_max_pixels_uncut :
    isNext (decStart (narrow (decHost (headerPack 65536 65536 4 0 ++ endMarker) 0))) = false ∧
    isNext (decStart (narrow (decHost (headerPack 0 65536 4 0 ++ endMarker) 0))) = true := by
  decide +kernel
/-- 20_memory.md R57, R59, 60_exceptions.md R216: a job whose own buffers overlap runs; L < 14 is the header error. -/
theorem test_own_buffers_overlap :
    (let s := decHost [0x71, 0x6F] 4
     decReport (decStart { s with dec := { s.dec with outBuf := some ⟨1, 4⟩ } })) = some (0x124, 0) := by
  decide +kernel

/-! ## Witnesses: states and operands that meet the hypotheses of each statement -/

theorem witness_DecodeInvertsEncode :
    (Instr.diff (-2) 1 (-2)).wf = true ∧ (Instr.luma (-32) (-8) 7).wf = true ∧ (Instr.luma 31 7 (-8)).wf = true ∧
    (Instr.run 1).wf = true ∧ (Instr.run 62).wf = true := by decide

theorem witness_EncodeInvertsDecode : decode [0xBF, 0xFF, 0x00] = .ok (.luma 31 7 7, [0x00]) := by decide

/-- Each class of first bytes at both ends of its range. -/
theorem witness_FirstByteSelectsOpcode :
    decode [0x00, 0, 0, 0, 0] = .ok (.index 0, [0, 0, 0, 0]) ∧ decode [0x3F, 0, 0, 0, 0] = .ok (.index 63, [0, 0, 0, 0]) ∧
    decode [0x40, 0, 0, 0, 0] = .ok (.diff (-2) (-2) (-2), [0, 0, 0, 0]) ∧
    decode [0x7F, 0, 0, 0, 0] = .ok (.diff 1 1 1, [0, 0, 0, 0]) ∧
    decode [0x80, 0, 0, 0, 0] = .ok (.luma (-32) (-8) (-8), [0, 0, 0]) ∧
    decode [0xBF, 255, 0, 0, 0] = .ok (.luma 31 7 7, [0, 0, 0]) ∧
    decode [0xC0, 0, 0, 0, 0] = .ok (.run 1, [0, 0, 0, 0]) ∧ decode [0xFD, 0, 0, 0, 0] = .ok (.run 62, [0, 0, 0, 0]) ∧
    decode [0xFE, 1, 2, 3, 4] = .ok (.rgb 1 2 3, [4]) ∧ decode [0xFF, 1, 2, 3, 4] = .ok (.rgba 1 2 3 4, []) := by decide

theorem witness_FirstByteSettlesLength :
    decode [0xFF, 1, 2, 3, 4] = .ok (.rgba 1 2 3 4, []) ∧ decode [0xFF, 1, 2, 3] = .error (.truncated "RGBA") ∧
    decode [0xFE, 1, 2, 3] = .ok (.rgb 1 2 3, []) ∧ decode [0xFE, 1, 2] = .error (.truncated "RGB") ∧
    decode [0x80, 1] = .ok (.luma (-32) (-8) (-7), []) ∧ decode [0x80] = .error (.truncated "LUMA") ∧
    decode [0x7F] = .ok (.diff 1 1 1, []) := by decide

theorem witness_HeaderUnpackInvertsPack :
    readBytes (writeBytes [] 7 (headerPack 800 600 3 1)) 7 14 = headerPack 800 600 3 1 := by decide +kernel

/-! ### The decoder -/

/-- An RGBA that ends exactly at BODY_END, and one that ends one byte beyond it. -/
theorem witness_RgbaExecutes :
    OpcodeReady (decReady 1 [0xFF, 1, 2, 3, 4] endMarker) ⟨200, 4⟩ 5 ∧
    (decReady 1 [0xFF, 1, 2, 3] endMarker).dec.bodyEnd.toNat + 1 = (decReady 1 [0xFF, 1, 2, 3] endMarker).dec.cursor.toNat + 5 :=
  ⟨⟨by decide +kernel, by decide +kernel, by decide +kernel, by decide +kernel, by decide +kernel, by decide +kernel⟩,
    by decide +kernel⟩

theorem witness_RgbExecutes :
    OpcodeReady (decReady 1 [0xFE, 1, 2, 3] endMarker) ⟨200, 4⟩ 4 ∧
    (decReady 1 [0xFE, 1, 2] endMarker).dec.bodyEnd.toNat + 1 = (decReady 1 [0xFE, 1, 2] endMarker).dec.cursor.toNat + 4 :=
  ⟨⟨by decide +kernel, by decide +kernel, by decide +kernel, by decide +kernel, by decide +kernel, by decide +kernel⟩,
    by decide +kernel⟩

/-- One byte before BODY_END, one pixel missing. -/
theorem ready_one : OpcodeReady (decReady 1 [0x05] endMarker) ⟨200, 4⟩ 1 :=
  ⟨by decide +kernel, by decide +kernel, by decide +kernel, by decide +kernel, by decide +kernel, by decide +kernel⟩

theorem witness_IndexExecutes : OpcodeReady (decReady 1 [0x05] endMarker) ⟨200, 4⟩ 1 := ready_one

/-- The same job under `DEC_DELTA_OVERFLOW = error` and `DEC_RUN_OVERSHOOT = error`. -/
def strict (s : State) : State := { s with cfg := { s.cfg with deltaOverflow := .error, runOvershoot := .error } }

/-- Sums that fit at the ends of the range, a sum that wraps, and a sum that is the error. -/
theorem witness_DiffExecutes :
    OpcodeReady (decReady 1 [0x05] endMarker) ⟨200, 4⟩ 1 ∧ (decReady 1 [0x05] endMarker).cfg.deltaOverflow = .wrap ∧
    OpcodeReady (strict (decReady 1 [0x05] endMarker)) ⟨200, 4⟩ 1 ∧ SumsFit ⟨0, 255, 254, 255⟩ 0 0 1 ∧
    (strict (decReady 1 [0x05] endMarker)).cfg.deltaOverflow = .error ∧
    ¬ SumsFit (strict (decReady 1 [0x05] endMarker)).dec.prev (-1) 0 0 ∧ ¬ SumsFit ⟨255, 0, 0, 255⟩ 1 0 0 :=
  ⟨ready_one, by decide +kernel, ⟨ready_one.out, ready_one.channels, ready_one.missing, ready_one.fits, ready_one.countWidth,
      ready_one.bodyWidth⟩,
    by unfold SumsFit; decide, by decide +kernel, by unfold SumsFit; decide +kernel, by unfold SumsFit; decide⟩

/-- A LUMA that ends at BODY_END, one whose sum is the error, one that is truncated. -/
theorem witness_LumaExecutes :
    OpcodeReady (decReady 1 [0x80, 0x00] endMarker) ⟨200, 4⟩ 2 ∧
    (decReady 1 [0x80, 0x00] endMarker).cfg.deltaOverflow = .wrap ∧
    (strict (decReady 1 [0x80, 0x00] endMarker)).cfg.deltaOverflow = .error ∧
    SumsFit (strict (decReady 1 [0x80, 0x00] endMarker)).dec.prev (7 + 31) 31 (7 + 31) ∧
    ¬ SumsFit (strict (decReady 1 [0x80, 0x00] endMarker)).dec.prev (-8 + -32) (-32) (-8 + -32) ∧
    (decReady 1 [0x80] endMarker).dec.bodyEnd.toNat + 1 = (decReady 1 [0x80] endMarker).dec.cursor.toNat + 2 :=
  ⟨⟨by decide +kernel, by decide +kernel, by decide +kernel, by decide +kernel, by decide +kernel, by decide +kernel⟩,
    by decide +kernel, by decide +kernel,
    by unfold SumsFit; decide +kernel, by unfold SumsFit; decide +kernel, by decide +kernel⟩

/-- One pixel is missing: a run of 1 fits exactly, a run of 2 is clamped or the error. -/
theorem witness_RunExecutes :
    OpcodeReady (decReady 1 [0x05] endMarker) ⟨200, 4⟩ 1 ∧
    (decReady 1 [0x05] endMarker).dec.n.toNat - (decReady 1 [0x05] endMarker).dec.produced.toNat = 1 ∧
    (decReady 1 [0x05] endMarker).cfg.runOvershoot = .clamp ∧
    (strict (decReady 1 [0x05] endMarker)).cfg.runOvershoot = .error :=
  ⟨ready_one, by decide +kernel, by decide +kernel, by decide +kernel⟩

theorem witness_OpcodesLeaveTheRestAlone :
    ∃ t, exec (.rgba 1 2 3 4) (decReady 1 [0xFF, 1, 2, 3, 4] endMarker) = .next t :=
  exists_of_isNext (by decide +kernel)

/-- A host state from which DEC may be started: the stream `bs`, an output of `size` bytes. -/
theorem decHost_mayStart : DecMayStart (decHost (headerPack 1 1 4 0 ++ endMarker) 4) :=
  ⟨by decide +kernel, by decide +kernel, by decide +kernel⟩

/-- Each outcome of START: 13 bytes, a bad magic, 2 and 5 channels, an output one byte short, one pixel above MAX_PIXELS,
an output of exactly the size, and 2^32 pixels on a platform with counters of 32 bits. -/
theorem witness_DecStartFollowsHeader :
    DecMayStart (decHost (headerPack 1 1 4 0 ++ endMarker) 4) ∧
    (decHost ((headerPack 1 1 4 0).take 13) 4).dec.inLen.toNat = 13 ∧ DecMayStart (decHost ((headerPack 1 1 4 0).take 13) 4) ∧
    (readBytes (decHost [0x71, 0x6F, 0x69, 0x67, 0, 0, 0, 1, 0, 0, 0, 1, 4, 0] 4).mem 0 4 ≠ [0x71, 0x6F, 0x69, 0x66] ∧
      DecMayStart (decHost [0x71, 0x6F, 0x69, 0x67, 0, 0, 0, 1, 0, 0, 0, 1, 4, 0] 4)) ∧
    readBytes (decHost (headerPack 1 1 2 0) 4).mem 0 14 = headerPack 1 1 2 0 ∧
    readBytes (decHost (headerPack 1 1 5 0) 4).mem 0 14 = headerPack 1 1 5 0 ∧
    readBytes (decHost (headerPack 1 1 4 0 ++ endMarker) 4).mem 0 14 = headerPack 1 1 4 0 ∧
    bufSize (decHost (headerPack 1 1 4 0 ++ endMarker) 4).dec.outBuf = 1 * 1 * 4 ∧
    bufSize (decHost (headerPack 1 1 4 0 ++ endMarker) 3).dec.outBuf + 1 = 1 * 1 * 4 ∧
    readBytes (decHost (headerPack 0x80000000 0x40000001 3 0) 4).mem 0 14 = headerPack 0x80000000 0x40000001 3 0 ∧
    State.reset.cfg.maxPixels < 0x80000000 * 0x40000001 ∧
    (DecMayStart (narrow (decHost (headerPack 65536 65536 4 0) 0)) ∧
      (narrow (decHost (headerPack 65536 65536 4 0) 0)).cfg.maxPixels < 65536 * 65536 ∧
      readBytes (narrow (decHost (headerPack 65536 65536 4 0) 0)).mem 0 14 = headerPack 65536 65536 4 0) :=
  ⟨decHost_mayStart, by decide +kernel, ⟨by decide +kernel, by decide +kernel, by decide +kernel⟩,
    ⟨by decide +kernel, by decide +kernel, by decide +kernel, by decide +kernel⟩, by decide +kernel, by decide +kernel,
    by decide +kernel, by decide +kernel, by decide +kernel, by decide +kernel, by decide +kernel,
    ⟨by decide +kernel, by decide +kernel, by decide +kernel⟩, by decide +kernel, by decide +kernel⟩

theorem witness_StepRunsDecodedOpcode :
    nextAgent (decReady 1 [0x80, 0x00] endMarker) = some .dec ∧ (decReady 1 [0x80, 0x00] endMarker).dec.phase = .busy ∧
    (decReady 1 [0x80, 0x00] endMarker).dec.produced.toNat < (decReady 1 [0x80, 0x00] endMarker).dec.n.toNat ∧
    (decReady 1 [0x80, 0x00] endMarker).dec.inBuf = some 0 ∧
    2 = (decReady 1 [0x80, 0x00] endMarker).dec.bodyEnd.toNat - (decReady 1 [0x80, 0x00] endMarker).dec.cursor.toNat ∧
    decode (readBytes (decReady 1 [0x80, 0x00] endMarker).mem
      (0 + (decReady 1 [0x80, 0x00] endMarker).dec.cursor.toNat) 2) = .ok (.luma (-32) (-8) (-8), []) := by
  decide +kernel

/-- The three opcodes that can be truncated, each one byte short. -/
theorem witness_TruncatedFetchRaises :
    (∀ body ∈ [[0xFF, 1, 2, 3], [0xFE, 1, 2], [0x80]],
      (decReady 1 body endMarker).dec.phase = .busy ∧
      (decReady 1 body endMarker).dec.produced.toNat < (decReady 1 body endMarker).dec.n.toNat ∧
      (decReady 1 body endMarker).dec.inBuf = some 0 ∧
      (decReady 1 body endMarker).dec.cursor.toNat < (decReady 1 body endMarker).dec.bodyEnd.toNat ∧
      readBytes (decReady 1 body endMarker).mem (0 + (decReady 1 body endMarker).dec.cursor.toNat)
        ((decReady 1 body endMarker).dec.bodyEnd.toNat - (decReady 1 body endMarker).dec.cursor.toNat) = body) ∧
    decode [0xFF, 1, 2, 3] = .error (.truncated "RGBA") ∧ decode [0xFE, 1, 2] = .error (.truncated "RGB") ∧
    decode [0x80] = .error (.truncated "LUMA") := by
  decide +kernel

/-- Header and end marker only, one pixel missing: the cursor stands at BODY_END. -/
theorem witness_UnderfilledOutputRaises :
    (decReady 1 [] endMarker).dec.phase = .busy ∧
    (decReady 1 [] endMarker).dec.produced.toNat < (decReady 1 [] endMarker).dec.n.toNat ∧
    (decReady 1 [] endMarker).dec.bodyEnd.toNat = (decReady 1 [] endMarker).dec.cursor.toNat := by
  decide +kernel

/-- The same job with ALLOW_TRAILING_BYTES. -/
def trailing (s : State) : State := { s with cfg := { s.cfg with allowTrailingBytes := true } }

/-- A zero-pixel stream whose trailer is good, one byte too long, that byte allowed, and missing. -/
theorem witness_TrailerChecked :
    (∀ tail ∈ [endMarker, endMarker ++ [0], []],
      (decReady 0 [] tail).dec.phase = .busy ∧ (decReady 0 [] tail).dec.produced = (decReady 0 [] tail).dec.n ∧
      (decReady 0 [] tail).dec.inBuf = some 0) ∧
    TrailerGood (decReady 0 [] endMarker) 0 ∧ ¬ TrailerGood (decReady 0 [] (endMarker ++ [0])) 0 ∧
    TrailerGood (trailing (decReady 0 [] (endMarker ++ [0]))) 0 ∧ ¬ TrailerGood (trailing (decReady 0 [] [])) 0 := by
  unfold TrailerGood
  decide +kernel

theorem witness_ErrorCodesReported (s : State) (e : DecErr) (off : Word64) : ErrorRaised s (raiseErr s e off) e off :=
  ⟨rfl, fun a h => raiseErr_readByte s e off a h, rfl⟩

theorem witness_StatusFollowsPhase : State.reset.dec.err = none ∧ (decReady 1 [] endMarker).dec.err = none := by
  decide +kernel

/-! ### Busy states that meet the invariant -/

/-- DEC BUSY with one RGBA to come, ENC idle. -/
theorem inv_dec : Inv (decReady 1 [0xFF, 1, 2, 3, 4] endMarker) where
  wide := by decide +kernel
  mem := by decide +kernel
  enc := fun h => absurd h (by decide +kernel)
  dec := fun _ =>
    { channels := by decide +kernel, count := by decide +kernel, limit := by decide +kernel, pixels := by decide +kernel
      produced := by decide +kernel, attached := by decide +kernel, length := by decide +kernel
      header := by decide +kernel, bodyEnd := by decide +kernel, cursorLow := by decide +kernel
      cursorHigh := by decide +kernel, outSize := by decide +kernel }
  err := by decide +kernel
  apart := fun h => absurd h (by decide +kernel)

/-- ENC BUSY with one pixel to come, DEC idle. -/
theorem inv_enc : Inv (encReady 4 1 [0, 0, 0, 255]) where
  wide := by decide +kernel
  mem := by decide +kernel
  enc := fun _ =>
    { channels := by decide +kernel, colorspace := by decide +kernel, count := by decide +kernel
      limit := by decide +kernel, pos := by decide +kernel, run := by decide +kernel, runPos := by decide +kernel
      flushed := by decide +kernel, emitted := by decide +kernel, inSize := by decide +kernel
      outSize := by decide +kernel }
  dec := fun h => absurd h (by decide +kernel)
  err := by decide +kernel
  apart := fun _ h => absurd h (by decide +kernel)

/-- A job of two pixels goes on after its first opcode. -/
theorem inv_dec_two : Inv (decReady 2 [0xFF, 1, 2, 3, 4, 0xC0] endMarker) where
  wide := by decide +kernel
  mem := by decide +kernel
  enc := fun h => absurd h (by decide +kernel)
  dec := fun _ =>
    { channels := by decide +kernel, count := by decide +kernel, limit := by decide +kernel, pixels := by decide +kernel
      produced := by decide +kernel, attached := by decide +kernel, length := by decide +kernel
      header := by decide +kernel, bodyEnd := by decide +kernel, cursorLow := by decide +kernel
      cursorHigh := by decide +kernel, outSize := by decide +kernel }
  err := by decide +kernel
  apart := fun h => absurd h (by decide +kernel)

theorem witness_OpcodeStepProgresses :
    Inv (decReady 2 [0xFF, 1, 2, 3, 4, 0xC0] endMarker) ∧
    (decReady 2 [0xFF, 1, 2, 3, 4, 0xC0] endMarker).dec.phase = .busy ∧
    (decReady 2 [0xFF, 1, 2, 3, 4, 0xC0] endMarker).dec.produced.toNat <
      (decReady 2 [0xFF, 1, 2, 3, 4, 0xC0] endMarker).dec.n.toNat ∧
    (nextState (decAct (decReady 2 [0xFF, 1, 2, 3, 4, 0xC0] endMarker))).map (fun t => t.dec.phase) = some .busy :=
  ⟨inv_dec_two, by decide +kernel, by decide +kernel, by decide +kernel⟩

theorem witness_DecodeJobEnds :
    Inv (decReady 1 [0xFF, 1, 2, 3, 4] endMarker) ∧ (decReady 1 [0xFF, 1, 2, 3, 4] endMarker).turns = [] ∧
    (decReady 1 [0xFF, 1, 2, 3, 4] endMarker).dec.phase = .busy :=
  ⟨inv_dec, by decide +kernel, by decide +kernel⟩

/-- A state that differs in a byte outside DEC_IN. -/
theorem witness_DecodeStepReadsOnlyItsStream :
    Inv (decReady 1 [0xFF, 1, 2, 3, 4] endMarker) ∧ (decReady 1 [0xFF, 1, 2, 3, 4] endMarker).dec.phase = .busy ∧
    (∀ a, covers (decInBuffer (decReady 1 [0xFF, 1, 2, 3, 4] endMarker).dec) a = true →
      readByte (writeByte (decReady 1 [0xFF, 1, 2, 3, 4] endMarker).mem 500 9) a =
        readByte (decReady 1 [0xFF, 1, 2, 3, 4] endMarker).mem a) ∧
    ∃ t, decAct (decReady 1 [0xFF, 1, 2, 3, 4] endMarker) = .next t := by
  refine ⟨inv_dec, by decide +kernel, fun a h => readByte_writeByte_ne _ _ ?_, exists_of_isNext (by decide +kernel)⟩
  rintro rfl
  exact absurd h (by decide +kernel)

theorem witness_DecStartForgetsOldJob :
    (nextState (writeReg (decHost (headerPack 1 1 4 0 ++ endMarker) 4) .decCtrl 1)).map (fun t => t.dec.phase) =
      some .busy ∧ (1 : Word64).getLsbD 0 = true := by
  decide +kernel

/-! ### The encoder -/

theorem witness_FetchPixelReadsBuffer :
    (encReady 4 1 [1, 2, 3, 4]).enc.inBuf = some ⟨0, 4⟩ ∧ (encReady 4 1 [1, 2, 3, 4]).enc.channels = 4 ∧
    (encReady 3 1 [1, 2, 3]).enc.inBuf = some ⟨0, 3⟩ ∧ (encReady 3 1 [1, 2, 3]).enc.channels = 3 := by
  decide +kernel

theorem encHost_mayStart : EncMayStart (encHost 4 1 [0, 0, 0, 255]) :=
  ⟨by decide +kernel, by decide +kernel⟩

/-- The least output buffer that is admitted; an input one byte short is not. -/
theorem witness_EncStartFollowsConfiguration :
    EncMayStart (encHost 4 1 [0, 0, 0, 255]) ∧ EncAdmitted (encHost 4 1 [0, 0, 0, 255]) ∧
    EncMayStart (encHost 4 1 [0, 0, 0]) ∧ ¬ EncAdmitted (encHost 4 1 [0, 0, 0]) ∧
    EncMayStart (encHost 5 1 [0, 0, 0, 0, 0]) ∧ ¬ EncAdmitted (encHost 5 1 [0, 0, 0, 0, 0]) :=
  ⟨encHost_mayStart, ⟨by decide +kernel, by decide +kernel, by decide +kernel, by decide +kernel, by decide +kernel⟩,
    ⟨by decide +kernel, by decide +kernel⟩, fun h => absurd h.inSize (by decide +kernel),
    ⟨by decide +kernel, by decide +kernel⟩, fun h => absurd h.channels (by decide +kernel)⟩

theorem witness_RunPixelEmitsNothing :
    (encReady 4 2 [0, 0, 0, 255, 1, 0, 0, 255]).enc.phase = .busy ∧
    PixelReady (encReady 4 2 [0, 0, 0, 255, 1, 0, 0, 255]) ⟨200, 32⟩ ∧
    encPixel (encReady 4 2 [0, 0, 0, 255, 1, 0, 0, 255]) = (encReady 4 2 [0, 0, 0, 255, 1, 0, 0, 255]).enc.prev ∧
    (encReady 4 2 [0, 0, 0, 255, 1, 0, 0, 255]).enc.run.toNat + 1 ≠ 62 ∧
    (encReady 4 2 [0, 0, 0, 255, 1, 0, 0, 255]).enc.pos.toNat + 1 ≠
      (encReady 4 2 [0, 0, 0, 255, 1, 0, 0, 255]).enc.n.toNat :=
  ⟨by decide +kernel, ⟨by decide +kernel, by decide +kernel, by decide +kernel, by decide +kernel, by decide +kernel,
      by decide +kernel⟩,
    by decide +kernel, by decide +kernel, by decide +kernel⟩

/-- The cap with a pixel still to come, and the last pixel. -/
theorem witness_RunEmittedAtCapOrEnd :
    (PixelReady (encPending 4 2 [0, 0, 0, 255, 1, 0, 0, 255] 61) ⟨200, 32⟩ ∧
      (encPending 4 2 [0, 0, 0, 255, 1, 0, 0, 255] 61).enc.phase = .busy ∧
      encPixel (encPending 4 2 [0, 0, 0, 255, 1, 0, 0, 255] 61) =
        (encPending 4 2 [0, 0, 0, 255, 1, 0, 0, 255] 61).enc.prev ∧
      (encPending 4 2 [0, 0, 0, 255, 1, 0, 0, 255] 61).enc.run.toNat + 1 = 62) ∧
    (PixelReady (encReady 4 1 [0, 0, 0, 255]) ⟨200, 27⟩ ∧ (encReady 4 1 [0, 0, 0, 255]).enc.phase = .busy ∧
      encPixel (encReady 4 1 [0, 0, 0, 255]) = (encReady 4 1 [0, 0, 0, 255]).enc.prev ∧
      (encReady 4 1 [0, 0, 0, 255]).enc.pos.toNat + 1 = (encReady 4 1 [0, 0, 0, 255]).enc.n.toNat) :=
  ⟨⟨⟨by decide +kernel, by decide +kernel, by decide +kernel, by decide +kernel, by decide +kernel,
      by decide +kernel⟩, by decide +kernel,
    by decide +kernel, by decide +kernel⟩,
   ⟨⟨by decide +kernel, by decide +kernel, by decide +kernel, by decide +kernel, by decide +kernel,
      by decide +kernel⟩, by decide +kernel,
    by decide +kernel, by decide +kernel⟩⟩

theorem witness_IndexEmittedOnHit :
    (encFrom ⟨5, 5, 5, 255⟩ [0, 0, 0, 255]).enc.phase = .busy ∧
    PixelReady (encFrom ⟨5, 5, 5, 255⟩ [0, 0, 0, 255]) ⟨200, 27⟩ ∧
    encPixel (encFrom ⟨5, 5, 5, 255⟩ [0, 0, 0, 255]) ≠ (encFrom ⟨5, 5, 5, 255⟩ [0, 0, 0, 255]).enc.prev ∧
    cacheRead (encFrom ⟨5, 5, 5, 255⟩ [0, 0, 0, 255]).enc.cache
      (pixelHash (encPixel (encFrom ⟨5, 5, 5, 255⟩ [0, 0, 0, 255]))) = encPixel (encFrom ⟨5, 5, 5, 255⟩ [0, 0, 0, 255]) :=
  ⟨by decide +kernel, ⟨by decide +kernel, by decide +kernel, by decide +kernel, by decide +kernel, by decide +kernel,
      by decide +kernel⟩,
    by decide +kernel, by decide +kernel⟩

/-- With a run of 3 pending. -/
theorem witness_RgbaEmittedOnAlphaChange :
    (encPending 4 1 [1, 2, 3, 4] 3).enc.phase = .busy ∧ PixelReady (encPending 4 1 [1, 2, 3, 4] 3) ⟨200, 27⟩ ∧
    cacheRead (encPending 4 1 [1, 2, 3, 4] 3).enc.cache (pixelHash (encPixel (encPending 4 1 [1, 2, 3, 4] 3))) ≠
      encPixel (encPending 4 1 [1, 2, 3, 4] 3) ∧
    (encPixel (encPending 4 1 [1, 2, 3, 4] 3)).a ≠ (encPending 4 1 [1, 2, 3, 4] 3).enc.prev.a :=
  ⟨by decide +kernel, ⟨by decide +kernel, by decide +kernel, by decide +kernel, by decide +kernel, by decide +kernel,
      by decide +kernel⟩,
    by decide +kernel, by decide +kernel⟩

/-- The deltas 1 and -2 are inside DIFF. -/
theorem witness_DiffEmittedOnSmallDeltas :
    (encFrom ⟨10, 10, 10, 255⟩ [11, 8, 10, 255]).enc.phase = .busy ∧
    PixelReady (encFrom ⟨10, 10, 10, 255⟩ [11, 8, 10, 255]) ⟨200, 27⟩ ∧
    CodedByDelta (encFrom ⟨10, 10, 10, 255⟩ [11, 8, 10, 255]).enc (encPixel (encFrom ⟨10, 10, 10, 255⟩ [11, 8, 10, 255])) ∧
    DiffApplies (encFrom ⟨10, 10, 10, 255⟩ [11, 8, 10, 255]).enc
      (encPixel (encFrom ⟨10, 10, 10, 255⟩ [11, 8, 10, 255])) :=
  ⟨by decide +kernel, ⟨by decide +kernel, by decide +kernel, by decide +kernel, by decide +kernel, by decide +kernel,
      by decide +kernel⟩,
    ⟨by decide +kernel, by decide +kernel, by decide +kernel⟩, by unfold DiffApplies deltaR deltaG deltaB; decide +kernel⟩

/-- The red delta 2 is outside DIFF; -32 is the least green delta of LUMA. -/
theorem witness_LumaEmittedOnLumaDeltas :
    (∀ px ∈ [[12, 10, 10, 255], [7, 10, 10, 255]],
      (encFrom ⟨10, 10, 10, 255⟩ px).enc.phase = .busy ∧
      ¬ DiffApplies (encFrom ⟨10, 10, 10, 255⟩ px).enc (encPixel (encFrom ⟨10, 10, 10, 255⟩ px)) ∧
      LumaApplies (encFrom ⟨10, 10, 10, 255⟩ px).enc (encPixel (encFrom ⟨10, 10, 10, 255⟩ px))) ∧
    PixelReady (encFrom ⟨10, 10, 10, 255⟩ [12, 10, 10, 255]) ⟨200, 27⟩ ∧
    CodedByDelta (encFrom ⟨10, 10, 10, 255⟩ [12, 10, 10, 255]).enc
      (encPixel (encFrom ⟨10, 10, 10, 255⟩ [12, 10, 10, 255])) ∧
    LumaApplies (encFrom ⟨100, 100, 100, 255⟩ [68, 68, 68, 255]).enc ⟨68, 68, 68, 255⟩ :=
  ⟨by unfold DiffApplies LumaApplies deltaR deltaG deltaB; decide +kernel,
    ⟨by decide +kernel, by decide +kernel, by decide +kernel, by decide +kernel, by decide +kernel,
      by decide +kernel⟩,
    ⟨by decide +kernel, by decide +kernel, by decide +kernel⟩, by unfold LumaApplies deltaR deltaG deltaB; decide +kernel⟩

/-- A green delta of 32 is outside LUMA. -/
theorem witness_RgbEmittedOtherwise :
    (encFrom ⟨100, 100, 100, 255⟩ [132, 132, 132, 255]).enc.phase = .busy ∧
    PixelReady (encFrom ⟨100, 100, 100, 255⟩ [132, 132, 132, 255]) ⟨200, 27⟩ ∧
    CodedByDelta (encFrom ⟨100, 100, 100, 255⟩ [132, 132, 132, 255]).enc
      (encPixel (encFrom ⟨100, 100, 100, 255⟩ [132, 132, 132, 255])) ∧
    ¬ DiffApplies (encFrom ⟨100, 100, 100, 255⟩ [132, 132, 132, 255]).enc
      (encPixel (encFrom ⟨100, 100, 100, 255⟩ [132, 132, 132, 255])) ∧
    ¬ LumaApplies (encFrom ⟨100, 100, 100, 255⟩ [132, 132, 132, 255]).enc
      (encPixel (encFrom ⟨100, 100, 100, 255⟩ [132, 132, 132, 255])) :=
  ⟨by decide +kernel, ⟨by decide +kernel, by decide +kernel, by decide +kernel, by decide +kernel, by decide +kernel,
      by decide +kernel⟩,
    ⟨by decide +kernel, by decide +kernel, by decide +kernel⟩, by unfold DiffApplies deltaR deltaG deltaB; decide +kernel,
    by unfold LumaApplies deltaR deltaG deltaB; decide +kernel⟩

/-- With no run pending and with one of 61. -/
theorem witness_EncodeFinishAppendsMarker :
    ∀ run ∈ [0, 61],
      (encPending 4 0 [] run).enc.phase = .busy ∧ (encPending 4 0 [] run).enc.pos = (encPending 4 0 [] run).enc.n ∧
      (encPending 4 0 [] run).enc.outBuf = some ⟨200, 22⟩ ∧ (encPending 4 0 [] run).enc.run.toNat ≤ 61 ∧
      (encPending 4 0 [] run).enc.outLen.toNat + 9 < 2 ^ 64 := by
  decide +kernel

theorem witness_ZeroPixelImageIs22Bytes :
    EncMayStart (encHost 4 0 []) ∧ EncAdmitted (encHost 4 0 []) ∧
    (encHost 4 0 []).enc.width.toNat * (encHost 4 0 []).enc.height.toNat = 0 :=
  ⟨⟨by decide +kernel, by decide +kernel⟩,
    ⟨by decide +kernel, by decide +kernel, by decide +kernel, by decide +kernel, by decide +kernel⟩, by decide +kernel⟩

theorem witness_EmittedOpcodesAreWellFormed :
    (encPending 4 1 [1, 2, 3, 4] 61).enc.run.toNat = 61 ∧
    (planPixel (encPending 4 1 [1, 2, 3, 4] 61).enc ⟨1, 2, 3, 4⟩ true).opcodes = [.run 61, .rgba 1 2 3 4] := by
  decide +kernel

theorem witness_AlphaChangeIsIndexOrRgba :
    (4 : Byte) ≠ (encPending 4 1 [1, 2, 3, 4] 3).enc.prev.a ∧ (255 : Byte) = (encPending 4 1 [1, 2, 3, 4] 3).enc.prev.a := by
  decide +kernel

/-- A state that differs in a byte outside ENC_IN. -/
theorem witness_EncodeStepReadsOnlyItsPixels :
    Inv (encReady 4 1 [0, 0, 0, 255]) ∧ (encReady 4 1 [0, 0, 0, 255]).enc.phase = .busy ∧
    (∀ a, covers (encReady 4 1 [0, 0, 0, 255]).enc.inBuf a = true →
      readByte (writeByte (encReady 4 1 [0, 0, 0, 255]).mem 500 9) a = readByte (encReady 4 1 [0, 0, 0, 255]).mem a) ∧
    ∃ t, encAct (encReady 4 1 [0, 0, 0, 255]) = .next t := by
  refine ⟨inv_enc, by decide +kernel, fun a h => readByte_writeByte_ne _ _ ?_, exists_of_isNext (by decide +kernel)⟩
  rintro rfl
  exact absurd h (by decide +kernel)

theorem witness_EncodeJobTakesOneStepPerPixel :
    Inv (encReady 4 1 [0, 0, 0, 255]) ∧ (encReady 4 1 [0, 0, 0, 255]).turns = [] ∧
    (encReady 4 1 [0, 0, 0, 255]).enc.phase = .busy ∧ (encReady 4 1 [0, 0, 0, 255]).dec.phase ≠ .busy :=
  ⟨inv_enc, by decide +kernel, by decide +kernel, by decide +kernel⟩

/-! ### Encoder and decoder together -/

/-- One pixel for each opcode that a differing pixel can be coded as, from PREV (0,0,0,255). -/
theorem witness_ExecutionInvertsSelection :
    (∀ px ∈ [(⟨10, 20, 30, 128⟩ : Pixel), ⟨10, 20, 30, 255⟩, ⟨1, 1, 1, 255⟩, ⟨2, 3, 1, 255⟩],
      px ≠ (decReady 1 [0xFF, 1, 2, 3, 4] endMarker).dec.prev ∧
      (encode (selectOpcode (decReady 1 [0xFF, 1, 2, 3, 4] endMarker).dec.cache
        (decReady 1 [0xFF, 1, 2, 3, 4] endMarker).dec.prev px).1).length ≤ 5) ∧
    OpcodeReady (decReady 1 [0xFF, 1, 2, 3, 4] endMarker) ⟨200, 4⟩ 5 :=
  ⟨by decide +kernel, witness_RgbaExecutes.1⟩

/-- A one-pixel image to encode, and DEC set to decode the output. -/
def roundTrip : State :=
  let s := encHost 4 1 [10, 20, 30, 128]
  { s with
    host := [.writeReg .encCtrl 1]
    dec := { s.dec with inBuf := some 200, outBuf := some ⟨300, 4⟩ } }

theorem witness_DecodeOfEncodeIsIdentity :
    64 ≤ roundTrip.cfg.counterWidth ∧ EncMayStart roundTrip ∧ EncAdmitted roundTrip ∧ roundTrip.dec.phase ≠ .busy ∧ roundTrip.turns = [] ∧
    roundTrip.host = [.writeReg .encCtrl 1] ∧ roundTrip.enc.inBuf = some ⟨0, 4⟩ ∧
    roundTrip.enc.outBuf = some ⟨200, 27⟩ ∧ overlap (some ⟨0, 4⟩) (some ⟨200, 27⟩) = false ∧
    roundTrip.dec.inBuf = some 200 ∧ roundTrip.dec.outBuf = some ⟨300, 4⟩ ∧
    roundTrip.enc.width.toNat * roundTrip.enc.height.toNat * roundTrip.enc.channels.toNat ≤ 4 ∧
    overlap (some ⟨300, 4⟩) (some ⟨0, 4⟩) = false ∧ overlap (some ⟨300, 4⟩) (some ⟨200, 27⟩) = false ∧
    22 + 5 * (roundTrip.enc.width.toNat * roundTrip.enc.height.toNat) < 2 ^ 64 ∧
    roundTrip.cfg.cacheInitPixel = roundTrip.cfg.prevInitPixel :=
  ⟨by decide +kernel, ⟨by decide +kernel, by decide +kernel⟩,
    ⟨by decide +kernel, by decide +kernel, by decide +kernel, by decide +kernel, by decide +kernel⟩, by decide +kernel,
    rfl, rfl, by decide +kernel, by decide +kernel, by decide +kernel, rfl, rfl, by decide +kernel, by decide +kernel, by decide +kernel,
    by decide +kernel, by decide +kernel⟩

/-- The two initial pixels differ and hash to different slots. -/
theorem witness_DecodeOfEncodeIsIdentity_parameters : pixelHash ⟨0, 0, 0, 0⟩ ≠ pixelHash ⟨0, 0, 0, 255⟩ := by decide

/-! ### The host and the whole machine -/

theorem witness_BusyEngineRefusesWrites :
    (encReady 4 1 [0, 0, 0, 255]).enc.phase = .busy ∧ regEngine .encStatus = .enc ∧ bufEngine .encOut = .enc ∧
    (decReady 1 [] endMarker).dec.phase = .busy ∧ regEngine .decPixels = .dec ∧ bufEngine .decIn = .dec := by
  decide +kernel

/-- First and last byte of each buffer, and DEC's output laid over ENC's input. -/
theorem witness_BusyBuffersAreTheEngines :
    (encReady 4 1 [0, 0, 0, 255]).enc.phase = .busy ∧ covers (encReady 4 1 [0, 0, 0, 255]).enc.inBuf 0 = true ∧
    covers (encReady 4 1 [0, 0, 0, 255]).enc.inBuf 3 = true ∧ covers (encReady 4 1 [0, 0, 0, 255]).enc.inBuf 4 = false ∧
    covers (encReady 4 1 [0, 0, 0, 255]).enc.outBuf 226 = true ∧ (decReady 1 [] endMarker).dec.phase = .busy ∧
    covers (decInBuffer (decReady 1 [] endMarker).dec) 21 = true ∧ covers (decReady 1 [] endMarker).dec.outBuf 203 = true ∧
    (let s := encReady 4 1 [0, 0, 0, 255]
     enginesOverlap { s with dec := { s.dec with outBuf := some ⟨3, 1⟩ } } = true) ∧
    (let s := decReady 1 [] endMarker
     enginesOverlap { s with enc := { s.enc with inBuf := some ⟨203, 4⟩ } } = true) := by
  decide +kernel

theorem witness_RegisterAccess :
    State.reset.enc.phase ≠ .busy ∧ State.reset.dec.phase ≠ .busy ∧ (2 : Word64).getLsbD 0 = false := by decide

theorem witness_HandleWritesStoreBuffers : State.reset.enc.phase ≠ .busy ∧ State.reset.dec.phase ≠ .busy := by decide

/-- ENC BUSY with its input at 0 to 3 and its output at 200 to 226, DEC BUSY with its input at 0 to 21 and its output at 200
to 203: the first bytes past them may be written, and the input may be read. -/
theorem witness_HostMovesBytes :
    ((encReady 4 1 [0, 0, 0, 255]).enc.phase = .busy ∧ (encReady 4 1 [0, 0, 0, 255]).dec.phase ≠ .busy ∧
      covers (encReady 4 1 [0, 0, 0, 255]).enc.inBuf 4 = false ∧ covers (encReady 4 1 [0, 0, 0, 255]).enc.outBuf 227 = false ∧
      covers (encReady 4 1 [0, 0, 0, 255]).enc.outBuf 4 = false ∧ covers (encReady 4 1 [0, 0, 0, 255]).enc.outBuf 3 = false) ∧
    ((decReady 1 [] endMarker).dec.phase = .busy ∧ (decReady 1 [] endMarker).enc.phase ≠ .busy ∧
      covers (decInBuffer (decReady 1 [] endMarker).dec) 22 = false ∧ covers (decReady 1 [] endMarker).dec.outBuf 22 = false ∧
      covers (decReady 1 [] endMarker).dec.outBuf 204 = false ∧ covers (decReady 1 [] endMarker).dec.outBuf 21 = false) := by
  decide +kernel

/-- A map with two entries at address 16, of which the first counts, a handle at 24, and nothing at 17. -/
def busMap : List (HostReg × Nat) := [(.num .encWidth, 16), (.num .encHeight, 16), (.handle .decIn, 24)]

theorem witness_BusAccessReachesRegisters :
    ({ State.reset with cfg := { Config.default with regMap := busMap } } : State).cfg.regMap = busMap ∧
    busMap = [] ++ (.num .encWidth, 16) :: busMap.tail ∧
    (busMap = busMap.take 2 ++ (.handle .decIn, 24) :: [] ∧ ∀ e ∈ busMap.take 2, e.2 ≠ 24) ∧
    ∀ e ∈ busMap, e.2 ≠ 17 := by decide

/-- A host that starts DEC without DEC_IN, and busy engines whose handles are taken away. -/
theorem witness_UnsetHandlesFault :
    (let s := decHost (headerPack 1 1 4 0) 4
     (1 : Word64).getLsbD 0 = true ∧ s.dec.inLen.toNat < 2 ^ s.cfg.counterWidth ∧ s.dec.phase ≠ .busy ∧ s.enc.phase ≠ .busy ∧
       s.dec.inLen.toNat = 14) ∧
    (let s := decReady 1 [0x05] endMarker
     s.dec.phase = .busy ∧ s.dec.produced.toNat < s.dec.n.toNat ∧ s.dec.cursor.toNat + 1 = s.dec.bodyEnd.toNat) ∧
    (let s := decReady 0 [] endMarker
     s.dec.phase = .busy ∧ s.dec.produced = s.dec.n ∧ s.dec.l.toNat = s.dec.cursor.toNat + 8) ∧
    State.reset.dec.outBuf = none ∧
    (let s := encReady 4 1 [0, 0, 0, 255]
     s.enc.phase = .busy ∧ s.enc.pos.toNat < s.enc.n.toNat ∧ s.enc.inBuf ≠ none) := by
  decide +kernel

theorem witness_EngineNotBusyTakesNoStep : State.reset.enc.phase ≠ .busy ∧ State.reset.dec.phase ≠ .busy := by decide

theorem witness_EnginesShareNoState :
    (∃ t, encAct (encReady 4 1 [0, 0, 0, 255]) = .next t) ∧
    ∃ t, decAct (decReady 1 [0xFF, 1, 2, 3, 4] endMarker) = .next t :=
  ⟨exists_of_isNext (by decide +kernel), exists_of_isNext (by decide +kernel)⟩

theorem witness_EnginesWriteOnlyTheirOutput :
    (Inv (encReady 4 1 [0, 0, 0, 255]) ∧ ∃ t, encAct (encReady 4 1 [0, 0, 0, 255]) = .next t) ∧
    (Inv (decReady 1 [0xFF, 1, 2, 3, 4] endMarker) ∧ ∃ t, decAct (decReady 1 [0xFF, 1, 2, 3, 4] endMarker) = .next t) :=
  ⟨⟨inv_enc, exists_of_isNext (by decide +kernel)⟩, ⟨inv_dec, exists_of_isNext (by decide +kernel)⟩⟩

theorem witness_StepKeepsInvariant :
    (Inv (encReady 4 1 [0, 0, 0, 255]) ∧ ∃ t, step (encReady 4 1 [0, 0, 0, 255]) = .next t) ∧
    (Inv (decReady 1 [0xFF, 1, 2, 3, 4] endMarker) ∧ ∃ t, step (decReady 1 [0xFF, 1, 2, 3, 4] endMarker) = .next t) :=
  ⟨⟨inv_enc, exists_of_isNext (by decide +kernel)⟩, ⟨inv_dec, exists_of_isNext (by decide +kernel)⟩⟩

/-- The counters of a four-bit wide platform, at their least and greatest values. -/
theorem witness_CountersKeepTheirWidth :
    CountersFit State.reset ∧
    (let s : State := { State.reset with cfg := { Config.default with counterWidth := 4 }, turns := [.dec] }
     let t : State := { s with enc := { s.enc with pos := 15, n := 15 }, dec := { s.dec with
       cursor := 15, produced := 15, pixels := 15, n := 15, l := 15, bodyEnd := 15 } }
     CountersFit t ∧ ∃ u, step t = .next u) :=
  ⟨⟨by decide, by decide, by decide, by decide, by decide, by decide, by decide, by decide⟩,
    ⟨by decide, by decide, by decide, by decide, by decide, by decide, by decide, by decide⟩,
    exists_of_isNext (by decide +kernel)⟩

theorem witness_EngineStepsAlwaysComplete :
    Inv (encReady 4 1 [0, 0, 0, 255]) ∧ Inv (decReady 1 [0xFF, 1, 2, 3, 4] endMarker) := ⟨inv_enc, inv_dec⟩

end Sys2Proof.Tests
end

section
/-!
The pixel counters, positions and cursors keep their width (00_scope.md R7, 10_state.md R27). The one idea: a step leaves
such a register alone, clears it, or writes it through `counter`, which cuts to the width; and no step writes the width.
First one lemma per state update, then one per agent.
-/

namespace Sys2Proof.Machine

variable {s t : State}

/-! ## Register and handle writes, said once -/

/-- Everything a register write can do: START of an engine, or a change of the configuration registers alone. -/
theorem storeReg_cases {r : Reg} {v : Word64} (h : storeReg s r v = .next t) :
    (r = .encCtrl ∧ encStart s = .next t) ∨
    (r = .decCtrl ∧ decStart s = .next t) ∨
    t = { s with
      enc := { s.enc with
        width := t.enc.width, height := t.enc.height, channels := t.enc.channels, colorspace := t.enc.colorspace }
      dec := { s.dec with inLen := t.dec.inLen } } := by
  cases r
  case encCtrl =>
    simp only [storeReg] at h
    split at h
    · exact .inl ⟨rfl, h⟩
    · cases h
      exact .inr (.inr rfl)
  case decCtrl =>
    simp only [storeReg] at h
    split at h
    · exact .inr (.inl ⟨rfl, h⟩)
    · cases h
      exact .inr (.inr rfl)
  all_goals
    cases h
    exact .inr (.inr rfl)

/-- A handle write changes the four handles at most. -/
theorem storeBuffer_frame (s : State) (b : BufName) (buf : Buffer) :
    storeBuffer s b buf =
      { s with
        enc := { s.enc with inBuf := (storeBuffer s b buf).enc.inBuf, outBuf := (storeBuffer s b buf).enc.outBuf }
        dec := { s.dec with inBuf := (storeBuffer s b buf).dec.inBuf, outBuf := (storeBuffer s b buf).dec.outBuf } } := by
  cases b <;> rfl

/-! ## Updates that write no counter -/

theorem countersFit_popTurn (h : CountersFit s) : CountersFit (popTurn s) := { h with }

theorem countersFit_emit (h : CountersFit s) (bs : List Byte) : CountersFit (emit s bs) := { h with }

theorem countersFit_setPrev (h : CountersFit s) (px : Pixel) : CountersFit (setPrev s px) := { h with }

theorem countersFit_raiseErr (h : CountersFit s) (e : DecErr) (off : Word64) : CountersFit (raiseErr s e off) :=
  { h with }

theorem countersFit_setHeaderRegs (h : CountersFit s) (hdr : Header) : CountersFit (setHeaderRegs s hdr) := { h with }

theorem countersFit_storeBuffer (h : CountersFit s) (b : BufName) (buf : Buffer) :
    CountersFit (storeBuffer s b buf) := by
  rw [storeBuffer_frame]
  exact { h with }

theorem countersFit_busRead (h : CountersFit s) (addr : Nat) : CountersFit (busRead s addr) := by
  rw [busRead_frame]
  exact { h with }

/-! ## Updates that clear a counter or write it through `counter` -/

theorem zero_fits (cfg : Config) : (0 : Word64).toNat < 2 ^ cfg.counterWidth := Nat.two_pow_pos _

theorem countersFit_applyPlan (h : CountersFit s) (px : Pixel) (p : Plan) : CountersFit (applyPlan s px p) :=
  { h with encPos := counter_toNat_lt _ _ }

theorem countersFit_encLaunch (h : CountersFit s) : CountersFit (encLaunch s) :=
  { h with encPos := zero_fits _, encN := counter_toNat_lt _ _ }

theorem countersFit_putPixel (h : CountersFit s) (px : Pixel) : CountersFit (putPixel s px) :=
  { h with produced := counter_toNat_lt _ _, pixels := counter_toNat_lt _ _ }

theorem countersFit_putPixels (h : CountersFit s) (px : Pixel) (k : Nat) : CountersFit (putPixels s px k) := by
  induction k generalizing s with
  | zero => exact h
  | succ k ih => exact ih (countersFit_putPixel h px)

theorem countersFit_advance (h : CountersFit s) (len : Nat) : CountersFit (advance s len) :=
  { h with cursor := counter_toNat_lt _ _ }

theorem countersFit_decClear (h : CountersFit s) : CountersFit (decClear s) :=
  { h with pixels := zero_fits _, length := counter_toNat_lt _ _ }

theorem countersFit_decLaunch (h : CountersFit s) : CountersFit (decLaunch s) :=
  { h with
    decN := counter_toNat_lt _ _
    produced := zero_fits _
    cursor := counter_toNat_lt _ _
    bodyEnd := counter_toNat_lt _ _ }

/-- Power-on reset gives every counter a free value, cut to the width; so nothing need be known of the state before. -/
theorem countersFit_powerOn (s : State) : CountersFit (powerOn s) where
  encPos := counter_toNat_lt _ _
  encN := counter_toNat_lt _ _
  cursor := counter_toNat_lt _ _
  produced := counter_toNat_lt _ _
  pixels := zero_fits _
  decN := counter_toNat_lt _ _
  length := counter_toNat_lt _ _
  bodyEnd := counter_toNat_lt _ _

/-! ## The engines -/

theorem encAct_keeps_countersFit (h : CountersFit s) (ht : encAct s = .next t) : CountersFit t := by
  rcases encAct_cases ht with ⟨_, rfl⟩ | ⟨_, _, _, _, rfl⟩ | ⟨_, _, _, rfl⟩
  · exact h
  · exact countersFit_applyPlan h _ _
  · have hflush : CountersFit (emitOpcodes s (pendingRun s.enc)) := countersFit_emit h _
    have hmark := countersFit_emit hflush endMarker
    exact { hmark with }

theorem decTrailer_keeps_countersFit (h : CountersFit s) (ht : decTrailer s = .next t) : CountersFit t := by
  rcases decTrailer_cases ht with rfl | ⟨_, _, _, _, rfl⟩
  · exact countersFit_raiseErr h _ _
  · exact { h with }

theorem decAct_keeps_countersFit (h : CountersFit s) (ht : decAct s = .next t) : CountersFit t := by
  rcases decAct_cases ht with ⟨_, rfl⟩ | ⟨hb, hp, _⟩ | ⟨_, _, htr⟩
  · exact h
  · rcases decAct_opcode_cases hb hp ht with ⟨e, rfl⟩ | ⟨len, k, px, _, _, _, _, rfl⟩
    · exact countersFit_raiseErr h _ _
    · exact countersFit_advance (countersFit_setPrev (countersFit_putPixels h px k) px) len
  · exact decTrailer_keeps_countersFit h htr

theorem encStart_keeps_countersFit (h : CountersFit s) (ht : encStart s = .next t) : CountersFit t := by
  obtain ⟨_, _, rfl⟩ := encStart_cases ht
  exact countersFit_encLaunch h

theorem decStart_keeps_countersFit (h : CountersFit s) (ht : decStart s = .next t) : CountersFit t := by
  have hclear := countersFit_decClear h
  obtain ⟨_, ⟨e, off, u, hu, rfl⟩ | ⟨base, hdr, _, _, _, _, _, _, _, rfl⟩⟩ := decStart_cases ht
  · rcases hu with rfl | ⟨hdr, rfl⟩
    · exact countersFit_raiseErr hclear e off
    · exact countersFit_raiseErr (countersFit_setHeaderRegs hclear hdr) e off
  · exact countersFit_decLaunch (countersFit_setHeaderRegs hclear hdr)

/-! ## The host -/

theorem writeReg_keeps_countersFit {r : Reg} {v : Word64} (h : CountersFit s) (ht : writeReg s r v = .next t) :
    CountersFit t := by
  rcases storeReg_cases (writeReg_cases ht).2 with ⟨_, hs⟩ | ⟨_, hs⟩ | hs
  · exact encStart_keeps_countersFit h hs
  · exact decStart_keeps_countersFit h hs
  · rw [hs]
    exact { h with }

theorem setBuffer_keeps_countersFit {b : BufName} {buf : Buffer} (h : CountersFit s)
    (ht : setBuffer s b buf = .next t) : CountersFit t := by
  obtain ⟨_, rfl⟩ := setBuffer_cases ht
  exact countersFit_storeBuffer h b buf

theorem busWrite_keeps_countersFit {addr : Nat} {v : Word64} (h : CountersFit s) (ht : busWrite s addr v = .next t) :
    CountersFit t := by
  rcases busWrite_cases ht with ⟨r, _, hw⟩ | ⟨b, _, hw⟩ | ⟨_, rfl⟩
  · exact writeReg_keeps_countersFit h hw
  · exact setBuffer_keeps_countersFit h hw
  · exact h

theorem hostDo_keeps_countersFit {a : HostAction} (h : CountersFit s) (ht : hostDo a s = .next t) : CountersFit t := by
  cases a with
  | writeReg r v => exact writeReg_keeps_countersFit h ht
  | readReg r =>
    cases ht
    exact { h with }
  | busWrite addr v => exact busWrite_keeps_countersFit h ht
  | busRead addr =>
    cases ht
    exact countersFit_busRead h addr
  | setBuffer b buf => exact setBuffer_keeps_countersFit h ht
  | readBuffer b =>
    cases ht
    exact { h with }
  | writeMem addr v =>
    obtain ⟨_, _, rfl⟩ := hostWrite_cases ht
    exact { h with }
  | readMem addr =>
    obtain ⟨_, _, rfl⟩ := hostRead_cases ht
    exact { h with }
  | powerOn =>
    cases ht
    exact countersFit_powerOn s

/-! ## The step -/

theorem step_keeps_countersFit (h : CountersFit s) (ht : step s = .next t) : CountersFit t := by
  have hpop := countersFit_popTurn h
  rcases step_cases ht with rfl | henc | hdec | ⟨a, rest, _, hhost⟩
  · exact hpop
  · exact encAct_keeps_countersFit hpop henc
  · exact decAct_keeps_countersFit hpop hdec
  · have hrest : CountersFit { popTurn s with host := rest } := { hpop with }
    exact hostDo_keeps_countersFit hrest hhost

/-- Settles O59: the turn of each agent keeps the counters within their width. -/
theorem countersKeepTheirWidth : Obligations.CountersKeepTheirWidth := by
  unfold Obligations.CountersKeepTheirWidth
  exact fun _ _ h ht => step_keeps_countersFit h ht

end Sys2Proof.Machine
end

section
/-!
The invariant (Sys2Proof/Safety.lean) holds at reset and every step keeps it. The one idea: an agent writes one engine at a
time, so a step owes only that engine's part of the invariant, and the other engine's part is what it was. First these two
rules, then the parts that a job start and a step of a job owe, then one lemma per agent.
-/

namespace Sys2Proof.Machine

variable {s t : State}

/-! ## What a step that writes one engine owes -/

/-- A step that writes ENC and the memory owes the memory's form, ENC's job and the buffers' separation. -/
theorem inv_of_enc_written (h : Inv s) (hcfg : t.cfg = s.cfg) (hdec : t.dec = s.dec) (hmem : Memory.wf t.mem)
    (job : t.enc.phase = .busy → EncJobOk s.cfg t.enc)
    (apart : t.enc.phase = .busy → s.dec.phase = .busy → enginesOverlap t = false) : Inv t where
  wide := hcfg ▸ h.wide
  mem := hmem
  enc := hcfg ▸ job
  dec := hcfg ▸ hdec ▸ h.dec
  err := hdec ▸ h.err
  apart := hdec ▸ apart

/-- A step that writes DEC and the memory owes the memory's form, DEC's job, the error code and the buffers' separation. -/
theorem inv_of_dec_written (h : Inv s) (hcfg : t.cfg = s.cfg) (henc : t.enc = s.enc) (hmem : Memory.wf t.mem)
    (job : t.dec.phase = .busy → DecJobOk s.cfg t.dec) (err : t.dec.phase = .error ↔ t.dec.err ≠ none)
    (apart : s.enc.phase = .busy → t.dec.phase = .busy → enginesOverlap t = false) : Inv t where
  wide := hcfg ▸ h.wide
  mem := hmem
  enc := hcfg ▸ henc ▸ h.enc
  dec := hcfg ▸ job
  err := err
  apart := henc ▸ apart

/-- An ENC that is not BUSY owes nothing. -/
theorem inv_of_enc_notBusy (h : Inv s) (hcfg : t.cfg = s.cfg) (hdec : t.dec = s.dec) (hmem : Memory.wf t.mem)
    (notBusy : t.enc.phase ≠ .busy) : Inv t :=
  inv_of_enc_written h hcfg hdec hmem (fun hb => absurd hb notBusy) (fun hb => absurd hb notBusy)

/-- A DEC that is not BUSY owes its error code alone. -/
theorem inv_of_dec_notBusy (h : Inv s) (hcfg : t.cfg = s.cfg) (henc : t.enc = s.enc) (hmem : Memory.wf t.mem)
    (notBusy : t.dec.phase ≠ .busy) (err : t.dec.phase = .error ↔ t.dec.err ≠ none) : Inv t :=
  inv_of_dec_written h hcfg henc hmem (fun hb => absurd hb notBusy) err (fun _ hb => absurd hb notBusy)

/-- The error ends DEC's job, so of the state `u` it is raised in only what lies outside DEC counts. -/
theorem inv_raiseErr (h : Inv s) (u : State) (hcfg : u.cfg = s.cfg) (henc : u.enc = s.enc) (hmem : u.mem = s.mem)
    (e : DecErr) (off : Word64) : Inv (raiseErr u e off) :=
  inv_of_dec_notBusy h hcfg henc (raiseErr_wf (hmem ▸ h.mem) e off) (by simp) (by simp)

theorem Inv.dec_err_none (h : Inv s) (hb : s.dec.phase = .busy) : s.dec.err = none := by
  by_contra he
  have := h.err.2 he
  simp [hb] at this

/-! ## The encoder's job -/

@[simp] theorem encLaunch_enc_outLen (s : State) : (encLaunch s).enc.outLen = 14 := rfl

/-- An admitted configuration starts a job within its bounds (41_encoder.md R120). -/
theorem encJobOk_encLaunch (hw : 64 ≤ s.cfg.counterWidth) (h : EncAdmitted s) : EncJobOk s.cfg (encLaunch s).enc := by
  have hn : (encLaunch s).enc.n.toNat = s.enc.width.toNat * s.enc.height.toNat := pixelCount_toNat hw _ _
  exact
    { channels := h.channels
      colorspace := h.colorspace
      count := hn
      limit := hn ▸ h.limit
      pos := Nat.zero_le _
      run := Nat.zero_le _
      runPos := Nat.zero_le _
      flushed := fun _ => rfl
      emitted := le_refl _
      inSize := hn ▸ h.inSize
      outSize := hn ▸ h.outSize }

theorem applyPlan_pos_toNat (hw : 64 ≤ s.cfg.counterWidth) (hp : s.enc.pos.toNat < s.enc.n.toNat) (px : Pixel) (p : Plan) :
    (applyPlan s px p).enc.pos.toNat = s.enc.pos.toNat + 1 := by
  have hn := s.enc.n.isLt
  rw [applyPlan_enc_pos]
  exact counter_wide hw (by omega)

theorem applyPlan_outLen_le (s : State) (px : Pixel) (p : Plan) :
    (applyPlan s px p).enc.outLen.toNat ≤ s.enc.outLen.toNat + (p.opcodes.flatMap encode).length := by
  rw [applyPlan_enc_outLen, emitOpcodes, emit_enc_outLen, BitVec.toNat_ofNat]
  exact Nat.mod_le _ _

/-- A pixel that extends the run emits nothing and is not the last. -/
theorem encJobOk_extend {p : Plan} (hw : 64 ≤ s.cfg.counterWidth) (h : EncJobOk s.cfg s.enc)
    (hp : s.enc.pos.toNat < s.enc.n.toNat) (hrun : p.run = s.enc.run.toNat + 1) (hops : p.opcodes = [])
    (hcap : s.enc.run.toNat + 1 ≠ 62) (hlast : s.enc.pos.toNat + 1 ≠ s.enc.n.toNat) (px : Pixel) :
    EncJobOk s.cfg (applyPlan s px p).enc := by
  have hpos := applyPlan_pos_toNat hw hp px p
  have hlen := applyPlan_outLen_le s px p
  rw [hops, List.flatMap_nil, List.length_nil] at hlen
  have hold := h.run
  have hnew : (applyPlan s px p).enc.run.toNat = s.enc.run.toNat + 1 := by
    rw [applyPlan_enc_run, hrun, BitVec.toNat_ofNat, Nat.mod_eq_of_lt (by omega)]
  have hrunPos := h.runPos
  have hemitted := h.emitted
  exact
    { h with
      pos := hpos.trans_le hp
      run := by omega
      runPos := by omega
      flushed := fun he => absurd (hpos.symm.trans he) hlast
      emitted := by omega }

/-- Where the run ends, the pixels counted pay for the bytes emitted (20_memory.md R63). -/
theorem encJobOk_flush {p : Plan} (hw : 64 ≤ s.cfg.counterWidth) (h : EncJobOk s.cfg s.enc)
    (hp : s.enc.pos.toNat < s.enc.n.toNat) (hrun : p.run = 0)
    (hops : (p.opcodes.flatMap encode).length ≤ 5 * s.enc.run.toNat + 5) (px : Pixel) :
    EncJobOk s.cfg (applyPlan s px p).enc := by
  have hpos := applyPlan_pos_toNat hw hp px p
  have hlen := applyPlan_outLen_le s px p
  have hnew : (applyPlan s px p).enc.run = 0 := by
    rw [applyPlan_enc_run, hrun]
    rfl
  have hzero : (applyPlan s px p).enc.run.toNat = 0 := congrArg BitVec.toNat hnew
  have hemitted := h.emitted
  exact
    { h with
      pos := hpos.trans_le hp
      run := by omega
      runPos := by omega
      flushed := fun _ => hnew
      emitted := by omega }

/-- A pixel step keeps the job's bounds, whichever plan it takes. -/
theorem encJobOk_pixel (hw : 64 ≤ s.cfg.counterWidth) (h : EncJobOk s.cfg s.enc)
    (hp : s.enc.pos.toNat < s.enc.n.toNat) (px : Pixel) :
    EncJobOk s.cfg (applyPlan s px (planPixel s.enc px (encLast s))).enc := by
  rcases planPixel_cases s.enc px (encLast s) with ⟨hrun, hops, hcap, hlast⟩ | ⟨hrun, hops⟩
  · exact encJobOk_extend hw h hp hrun hops hcap (by simpa [encLast] using hlast) px
  · exact encJobOk_flush hw h hp hrun hops px

/-! ## The decoder's job -/

/-- An accepted header starts a job within its bounds (42_decoder.md R160). -/
theorem decJobOk_decLaunch {base : Nat} {hdr : Header} (hw : 64 ≤ s.cfg.counterWidth) (hin : s.dec.inBuf = some base)
    (hlen : 14 ≤ (counter s.cfg s.dec.inLen.toNat).toNat) (hc : hdr.channels = 3 ∨ hdr.channels = 4)
    (hmax : hdr.width.toNat * hdr.height.toNat ≤ s.cfg.maxPixels)
    (hout : hdr.width.toNat * hdr.height.toNat * hdr.channels.toNat ≤ bufSize s.dec.outBuf) :
    DecJobOk s.cfg (decLaunch (setHeaderRegs (decClear s) hdr)).dec := by
  have hn : (decLaunch (setHeaderRegs (decClear s) hdr)).dec.n.toNat = hdr.width.toNat * hdr.height.toNat :=
    pixelCount_toNat hw _ _
  have hcursor : (decLaunch (setHeaderRegs (decClear s) hdr)).dec.cursor.toNat = 14 := counter_wide hw (by norm_num)
  have hbody : (decLaunch (setHeaderRegs (decClear s) hdr)).dec.bodyEnd.toNat =
      max 14 ((counter s.cfg s.dec.inLen.toNat).toNat - 8) := bodyEndOf_toNat hw _
  exact
    { channels := hc
      count := hn
      limit := hn ▸ hmax
      pixels := rfl
      produced := Nat.zero_le _
      attached := by simp [hin]
      length := counter_word hw s.dec.inLen
      header := hlen
      bodyEnd := hbody
      cursorLow := hcursor.ge
      cursorHigh := by rw [hcursor, hbody]; exact le_max_left _ _
      outSize := hn ▸ hout }

/-- An opcode of `len` bytes that ends before BODY_END and writes `k` of the missing pixels keeps the job's bounds
(42_decoder.md R176). -/
theorem decJobOk_opcode {len k : Nat} (hw : 64 ≤ s.cfg.counterWidth) (h : DecJobOk s.cfg s.dec)
    (hlen : s.dec.cursor.toNat + len ≤ s.dec.bodyEnd.toNat) (hk : 1 ≤ k)
    (hmissing : s.dec.produced.toNat + k ≤ s.dec.n.toNat) (px : Pixel) :
    DecJobOk s.cfg (advance (setPrev (putPixels s px k) px) len).dec := by
  have hn := s.dec.n.isLt
  have hb := s.dec.bodyEnd.isLt
  have hcursor : (counter s.cfg (s.dec.cursor.toNat + len)).toNat = s.dec.cursor.toNat + len :=
    counter_wide hw (by omega)
  have hproduced : (putPixels s px k).dec.produced.toNat = s.dec.produced.toNat + k :=
    putPixels_produced px k s (lt_of_lt_of_le (by omega) (Nat.pow_le_pow_right (by norm_num) hw)) (by omega)
  have hpixels := putPixels_pixels px k s hk
  have hcursorLow := h.cursorLow
  rw [putPixels_frame]
  exact
    { h with
      pixels := hpixels
      produced := hproduced.trans_le hmissing
      cursorLow := (by omega : 14 ≤ s.dec.cursor.toNat + len).trans_eq hcursor.symm
      cursorHigh := hcursor.trans_le hlen }

theorem enginesOverlap_opcode (s : State) (px : Pixel) (k len : Nat) :
    enginesOverlap (advance (setPrev (putPixels s px k) px) len) = enginesOverlap s := by
  rw [putPixels_frame]
  rfl

/-! ## The engines -/

theorem encAct_keeps_inv (h : Inv s) (ht : encAct s = .next t) : Inv t := by
  rcases encAct_cases ht with ⟨_, rfl⟩ | ⟨hb, hp, _, _, rfl⟩ | ⟨_, _, _, rfl⟩
  · exact h
  · exact inv_of_enc_written h rfl rfl (emit_wf h.mem _) (fun _ => encJobOk_pixel h.wide (h.enc hb) hp _)
      (fun _ hd => h.apart hb hd)
  · exact inv_of_enc_notBusy h rfl rfl (emit_wf (emit_wf h.mem _) _) (by simp)

theorem decTrailer_keeps_inv (h : Inv s) (hb : s.dec.phase = .busy) (ht : decTrailer s = .next t) : Inv t := by
  rcases decTrailer_cases ht with rfl | ⟨_, _, _, _, rfl⟩
  · exact inv_raiseErr h s rfl rfl rfl _ _
  · exact inv_of_dec_notBusy h rfl rfl h.mem (by simp) (by simp [h.dec_err_none hb])

theorem decAct_keeps_inv (h : Inv s) (ht : decAct s = .next t) : Inv t := by
  rcases decAct_cases ht with ⟨_, rfl⟩ | ⟨hb, hp, _⟩ | ⟨hb, _, htr⟩
  · exact h
  · rcases decAct_opcode_cases hb hp ht with ⟨e, rfl⟩ | ⟨len, k, px, _, hlen, hk, hmissing, rfl⟩
    · exact inv_raiseErr h s rfl rfl rfl _ _
    · refine inv_of_dec_written h (by simp) ?_ ?_ (fun _ => decJobOk_opcode h.wide (h.dec hb) hlen hk hmissing px) ?_ ?_
      · rw [putPixels_frame]
        rfl
      · exact putPixels_wf px k h.mem
      · rw [putPixels_frame]
        exact h.err
      · intro he _
        rw [enginesOverlap_opcode]
        exact h.apart he hb
  · exact decTrailer_keeps_inv h hb htr

/-! ## The job starts -/

theorem encStart_keeps_inv (h : Inv s) (ht : encStart s = .next t) : Inv t := by
  obtain ⟨hapart, hadmitted, rfl⟩ := encStart_cases ht
  exact inv_of_enc_written h rfl rfl (wf_writeBytes _ h.mem _) (fun _ => encJobOk_encLaunch h.wide hadmitted)
    (fun _ hd => hapart hd)

theorem decStart_keeps_inv (h : Inv s) (ht : decStart s = .next t) : Inv t := by
  obtain ⟨hapart, ⟨e, off, u, hu, rfl⟩ | ⟨base, hdr, hin, _, hlen, _, hc, hmax, hout, rfl⟩⟩ := decStart_cases ht
  · rcases hu with rfl | ⟨hdr, rfl⟩
    · exact inv_raiseErr h (decClear s) rfl rfl rfl e off
    · exact inv_raiseErr h (setHeaderRegs (decClear s) hdr) rfl rfl rfl e off
  · exact inv_of_dec_written h rfl rfl h.mem (fun _ => decJobOk_decLaunch h.wide hin hlen hc hmax hout) (by simp)
      (fun he _ => hapart he)

/-! ## The host -/

theorem engineBusy_enc_false : engineBusy s .enc = false ↔ s.enc.phase ≠ .busy := by
  rw [← Bool.not_eq_true, engineBusy_enc]

theorem engineBusy_dec_false : engineBusy s .dec = false ↔ s.dec.phase ≠ .busy := by
  rw [← Bool.not_eq_true, engineBusy_dec]

/-- A register write starts a job or changes the configuration of the register's own engine alone; `storeReg_cases` does not
tell the two engines apart. -/
theorem storeReg_engine_cases {r : Reg} {v : Word64} (h : storeReg s r v = .next t) :
    encStart s = .next t ∨ decStart s = .next t ∨
    (regEngine r = .enc ∧ t = { s with enc := { t.enc with phase := s.enc.phase } }) ∨
    (regEngine r = .dec ∧ t = { s with dec := { s.dec with inLen := t.dec.inLen } }) := by
  cases r
  case encCtrl =>
    simp only [storeReg] at h
    split at h
    · exact .inl h
    · cases h
      exact .inr (.inr (.inl ⟨rfl, rfl⟩))
  case decCtrl =>
    simp only [storeReg] at h
    split at h
    · exact .inr (.inl h)
    · cases h
      exact .inr (.inr (.inr ⟨rfl, rfl⟩))
  case encWidth | encHeight | encChannels | encColorspace | encStatus | encOutLen =>
    cases h
    exact .inr (.inr (.inl ⟨rfl, rfl⟩))
  all_goals
    cases h
    exact .inr (.inr (.inr ⟨rfl, rfl⟩))

theorem writeReg_keeps_inv {r : Reg} {v : Word64} (h : Inv s) (ht : writeReg s r v = .next t) : Inv t := by
  obtain ⟨hbusy, hstore⟩ := writeReg_cases ht
  rcases storeReg_engine_cases hstore with hs | hs | ⟨hr, hs⟩ | ⟨hr, hs⟩
  · exact encStart_keeps_inv h hs
  · exact decStart_keeps_inv h hs
  · rw [hr, engineBusy_enc_false] at hbusy
    rw [hs]
    exact inv_of_enc_notBusy h rfl rfl h.mem hbusy
  · rw [hr, engineBusy_dec_false] at hbusy
    rw [hs]
    exact inv_of_dec_notBusy h rfl rfl h.mem hbusy h.err

theorem setBuffer_keeps_inv {b : BufName} {buf : Buffer} (h : Inv s) (ht : setBuffer s b buf = .next t) : Inv t := by
  obtain ⟨hbusy, rfl⟩ := setBuffer_cases ht
  cases b with
  | encIn => exact inv_of_enc_notBusy h rfl rfl h.mem (engineBusy_enc_false.1 hbusy)
  | encOut => exact inv_of_enc_notBusy h rfl rfl h.mem (engineBusy_enc_false.1 hbusy)
  | decIn => exact inv_of_dec_notBusy h rfl rfl h.mem (engineBusy_dec_false.1 hbusy) h.err
  | decOut => exact inv_of_dec_notBusy h rfl rfl h.mem (engineBusy_dec_false.1 hbusy) h.err

theorem busWrite_keeps_inv {addr : Nat} {v : Word64} (h : Inv s) (ht : busWrite s addr v = .next t) : Inv t := by
  rcases busWrite_cases ht with ⟨r, _, hw⟩ | ⟨b, _, hw⟩ | ⟨_, rfl⟩
  · exact writeReg_keeps_inv h hw
  · exact setBuffer_keeps_inv h hw
  · exact h

theorem inv_busRead (h : Inv s) (addr : Nat) : Inv (busRead s addr) := by
  rw [busRead_frame]
  exact { h with }

/-- Power-on reset ends both jobs (10_state.md R41), so of the state before only the memory and the parameters count. -/
theorem inv_powerOn (h : Inv s) : Inv (powerOn s) where
  wide := h.wide
  mem := h.mem
  enc := nofun
  dec := nofun
  err := by simp [powerOn]
  apart := nofun

theorem hostDo_keeps_inv {a : HostAction} (h : Inv s) (ht : hostDo a s = .next t) : Inv t := by
  cases a with
  | writeReg r v => exact writeReg_keeps_inv h ht
  | readReg r =>
    cases ht
    exact { h with }
  | busWrite addr v => exact busWrite_keeps_inv h ht
  | busRead addr =>
    cases ht
    exact inv_busRead h addr
  | setBuffer b buf => exact setBuffer_keeps_inv h ht
  | readBuffer b =>
    cases ht
    exact { h with }
  | writeMem addr v =>
    obtain ⟨_, _, rfl⟩ := hostWrite_cases ht
    exact { h with mem := wf_writeByte h.mem addr v }
  | readMem addr =>
    obtain ⟨_, _, rfl⟩ := hostRead_cases ht
    exact { h with }
  | powerOn =>
    cases ht
    exact inv_powerOn h

/-! ## Reset and the step -/

theorem inv_reset : Inv State.reset where
  wide := le_refl 64
  mem := reset_mem_wf
  enc := nofun
  dec := nofun
  err := by simp [State.reset]
  apart := nofun

theorem step_keeps_inv (h : Inv s) (ht : step s = .next t) : Inv t := by
  have hpop : Inv (popTurn s) := { h with }
  rcases step_cases ht with rfl | henc | hdec | ⟨a, rest, _, hhost⟩
  · exact hpop
  · exact encAct_keeps_inv hpop henc
  · exact decAct_keeps_inv hpop hdec
  · have hrest : Inv { popTurn s with host := rest } := { hpop with }
    exact hostDo_keeps_inv hrest hhost

/-- Settles O58: the turn of each agent keeps the invariant. -/
theorem stepKeepsInvariant : Obligations.StepKeepsInvariant := by
  unfold Obligations.StepKeepsInvariant
  exact fun _ _ h ht => step_keeps_inv h ht

/-- Settles O57: at reset no engine is BUSY and no error is recorded. -/
theorem resetSatisfiesInvariant : Obligations.ResetSatisfiesInvariant := by
  unfold Obligations.ResetSatisfiesInvariant
  exact inv_reset

end Sys2Proof.Machine
end

section
/-!
What an opcode and an engine's step leave alone (10_state.md R20, 60_exceptions.md R208, R214). The one idea: each of the ways
a step can end is an update of one engine and the memory, so one frame equation per step says what it may write, and every
field that the equation does not name is as before.
-/

namespace Sys2Proof.Machine

variable {s t : State}

/-- An opcode writes DEC's job registers, the memory and the counter of free values, and nothing else. -/
theorem exec_frame {i : Instr} (h : exec i s = .next t) :
    t = { s with
      mem := t.mem
      freeCount := t.freeCount
      dec := { s.dec with
        phase := t.dec.phase, err := t.dec.err, errOffset := t.dec.errOffset, pixels := t.dec.pixels, cache := t.dec.cache,
        prev := t.dec.prev, cursor := t.dec.cursor, produced := t.dec.produced } } := by
  rcases exec_cases h with ⟨e, rfl⟩ | ⟨px, _, _, rfl⟩ | ⟨n, _, _, rfl⟩
  · rfl
  · rfl
  · rw [putPixels_frame]
    rfl

theorem decTrailer_frame (h : decTrailer s = .next t) :
    t = { s with dec := t.dec, mem := t.mem, freeCount := t.freeCount } := by
  rcases decTrailer_cases h with rfl | ⟨_, _, _, _, rfl⟩
  · rfl
  · rfl

theorem decStep_frame (h : decStep s = .next t) :
    t = { s with dec := t.dec, mem := t.mem, freeCount := t.freeCount } := by
  rcases decStep_cases h with ⟨_, rfl⟩ | ⟨_, _, _, _, _, hexec⟩
  · rfl
  · rw [exec_frame hexec]

/-- A step of DEC writes DEC, the memory and the counter of free values, and nothing else. -/
theorem decAct_frame (h : decAct s = .next t) :
    t = { s with dec := t.dec, mem := t.mem, freeCount := t.freeCount } := by
  rcases decAct_cases h with ⟨_, rfl⟩ | ⟨_, _, hstep⟩ | ⟨_, _, htrailer⟩
  · rfl
  · exact decStep_frame hstep
  · exact decTrailer_frame htrailer

/-- A step of ENC writes ENC and the memory, and nothing else. -/
theorem encAct_frame (h : encAct s = .next t) : t = { s with enc := t.enc, mem := t.mem } := by
  rcases encAct_cases h with ⟨_, rfl⟩ | ⟨_, _, _, _, rfl⟩ | ⟨_, _, _, rfl⟩
  · rfl
  · rfl
  · rfl

/-- Settles O16, from the frame of an opcode. -/
theorem opcodesLeaveTheRestAlone : Obligations.OpcodesLeaveTheRestAlone := by
  unfold Obligations.OpcodesLeaveTheRestAlone
  intro i s t h
  have hframe := exec_frame h
  refine ⟨?_, ?_, ?_, ?_, ?_, ?_, ?_⟩ <;> rw [hframe]

/-- Settles O55, from the frame of each engine's step. -/
theorem enginesShareNoState : Obligations.EnginesShareNoState := by
  unfold Obligations.EnginesShareNoState
  intro s t
  constructor
  · intro h
    have hframe := encAct_frame h
    refine ⟨?_, ?_, ?_, ?_⟩ <;> rw [hframe]
  · intro h
    have hframe := decAct_frame h
    refine ⟨?_, ?_, ?_, ?_⟩ <;> rw [hframe]

end Sys2Proof.Machine
end

section
/-!
The registers as the host sees them: what a read returns, what a write stores, and what a power-on reset leaves
(10_state.md R34 to R41).
-/

namespace Sys2Proof.Machine

/-! ## The status words -/

/-- DEC_STATUS is BUSY, DONE and ERR alone while no error is recorded (10_state.md R38). -/
theorem decStatus_toNat_of_no_err {s : State} (h : s.dec.err = none) :
    (decStatus s).toNat = decPhaseBits s.dec.phase := by
  rw [decStatus, h]
  cases s.dec.phase <;> rfl

/-- Settles O23: each status word is computed phase by phase. -/
theorem statusFollowsPhase : Obligations.StatusFollowsPhase := by
  unfold Obligations.StatusFollowsPhase
  refine fun s => ⟨?_, fun h => ?_⟩
  · rw [encStatus]
    cases s.enc.phase <;> rfl
  · rw [decStatus_toNat_of_no_err h]
    cases s.dec.phase <;> rfl

/-! ## Writes and reads -/

/-- A register write to an ENC that is not BUSY reaches the register (10_state.md R34). -/
theorem writeReg_enc {s : State} (h : s.enc.phase ≠ .busy) {r : Reg} (hr : regEngine r = .enc) (v : Word64) :
    writeReg s r v = storeReg s r v :=
  writeReg_eq v (hr ▸ engineBusy_enc_false.2 h)

/-- A register write to a DEC that is not BUSY reaches the register (10_state.md R37). -/
theorem writeReg_dec {s : State} (h : s.dec.phase ≠ .busy) {r : Reg} (hr : regEngine r = .dec) (v : Word64) :
    writeReg s r v = storeReg s r v :=
  writeReg_eq v (hr ▸ engineBusy_dec_false.2 h)

/-- A control write with bit 0 clear changes nothing (log entry 11). -/
theorem storeReg_encCtrl_clear (s : State) {v : Word64} (h : v.getLsbD 0 = false) : storeReg s .encCtrl v = .next s := by
  rw [storeReg, h]
  rfl

theorem storeReg_decCtrl_clear (s : State) {v : Word64} (h : v.getLsbD 0 = false) : storeReg s .decCtrl v = .next s := by
  rw [storeReg, h]
  rfl

/-- Settles O48: the writes register by register, then the reads. -/
theorem registerAccess : Obligations.RegisterAccess := by
  unfold Obligations.RegisterAccess
  refine fun s v => ⟨fun h => ?_, fun h => ?_, ?_⟩
  · exact ⟨writeReg_enc h rfl v, writeReg_enc h rfl v, writeReg_enc h rfl v, writeReg_enc h rfl v,
      fun hv => (writeReg_enc h rfl v).trans (storeReg_encCtrl_clear s hv), writeReg_enc h rfl v, writeReg_enc h rfl v⟩
  · exact ⟨writeReg_dec h rfl v, fun hv => (writeReg_dec h rfl v).trans (storeReg_decCtrl_clear s hv),
      writeReg_dec h rfl v, writeReg_dec h rfl v, writeReg_dec h rfl v, writeReg_dec h rfl v, writeReg_dec h rfl v,
      writeReg_dec h rfl v, writeReg_dec h rfl v⟩
  · simp only [regValue, BitVec.toNat_setWidth_of_le (show 8 ≤ 64 by decide),
      BitVec.toNat_setWidth_of_le (show 32 ≤ 64 by decide), and_self]

/-- Settles O49: the handle of an engine that is not BUSY takes the buffer. -/
theorem handleWritesStoreBuffers : Obligations.HandleWritesStoreBuffers := by
  unfold Obligations.HandleWritesStoreBuffers
  refine fun s buf => ⟨fun h => ?_, fun h => ?_⟩
  · have notBusy := engineBusy_enc_false.2 h
    exact ⟨setBuffer_eq buf notBusy, setBuffer_eq buf notBusy⟩
  · have notBusy := engineBusy_dec_false.2 h
    exact ⟨setBuffer_eq buf notBusy, setBuffer_eq buf notBusy⟩

/-! ## Reset -/

/-- Every register reads 0 after a power-on reset (10_state.md R41). -/
@[simp] theorem regValue_powerOn (s : State) (r : Reg) : regValue (powerOn s) r = 0 := by
  cases r <;> rfl

/-- Every register reads 0 in the model's initial state (10_state.md R41). -/
@[simp] theorem regValue_reset (r : Reg) : regValue State.reset r = 0 := by
  cases r <;> rfl

/-- Settles O53: the registers read 0 by the two lemmas above, and the other fields stand in the reset itself. -/
theorem powerOnClearsRegisters : Obligations.PowerOnClearsRegisters := by
  unfold Obligations.PowerOnClearsRegisters
  exact fun s r => ⟨powerOn s, rfl, regValue_powerOn s r, rfl, rfl, rfl, rfl, rfl, rfl, rfl, rfl, regValue_reset r⟩

end Sys2Proof.Machine
end

section
/-!
The header read back from memory (20_memory.md R54, 30_encoding.md R70): each of its fourteen bytes reads as the byte that was
packed, and four big-endian bytes give their word back.
-/

namespace Sys2Proof.Machine

/-- A byte inside a run of bytes that is known. -/
theorem readByte_of_readBytes {m : Memory} {a n : Nat} {vs : List Byte} (h : readBytes m a n = vs) (i : Nat)
    (hi : i < vs.length) : readByte m (a + i) = vs[i] := by
  subst h
  exact (readBytes_getElem m a n i hi).symm

/-- A header that stands packed in memory reads back field by field (40_shared.md R107, R108). -/
theorem readHeader_of_headerPack {m : Memory} {base : Nat} {w h : Word32} {c cs : Byte}
    (hm : readBytes m base 14 = headerPack w h c cs) : readHeader m base = ⟨w, h, c, cs⟩ := by
  have byte : ∀ i (hi : i < 14), readByte m (base + i) = (headerPack w h c cs)[i] := readByte_of_readBytes hm
  have width : (readHeader m base).width = w := by
    rw [readHeader, byte 4 (by decide), byte 5 (by decide), byte 6 (by decide), byte 7 (by decide)]
    exact be32_bytes w
  have height : (readHeader m base).height = h := by
    rw [readHeader, byte 8 (by decide), byte 9 (by decide), byte 10 (by decide), byte 11 (by decide)]
    exact be32_bytes h
  have channels : (readHeader m base).channels = c := byte 12 (by decide)
  have colorspace : (readHeader m base).colorspace = cs := byte 13 (by decide)
  rw [← width, ← height, ← channels, ← colorspace]

/-- Settles O9, byte by byte. -/
theorem headerUnpackInvertsPack : Obligations.HeaderUnpackInvertsPack := by
  unfold Obligations.HeaderUnpackInvertsPack
  exact fun _ _ _ _ _ _ hm => readHeader_of_headerPack hm

end Sys2Proof.Machine
end

section
/-!
DEC reads nothing but its stream (20_memory.md R61, 42_decoder.md R161). The one idea: two states that agree on DEC and on the
parameters still agree on both after every update that DEC makes, and every test that DEC makes looks at these two or at a byte
of DEC_IN. So the relation `SameDec` is carried through the updates, then through the ways a step ends, opcode by opcode.
-/

namespace Sys2Proof.Machine

variable {s s' t : State}

/-- Two states that agree on DEC and on the parameters; ENC, the memory and the host's part may differ. -/
structure SameDec (s s' : State) : Prop where
  dec : s'.dec = s.dec
  cfg : s'.cfg = s.cfg

/-- Two outcomes of the same kind: the same stop, or next states that agree on DEC and on the parameters. -/
inductive EndsAlike : Host.Outcome State Fault Refusal → Host.Outcome State Fault Refusal → Prop
  | next {t t' : State} (h : SameDec t t') : EndsAlike (.next t) (.next t')
  | fault (r : Fault) : EndsAlike (.fault r) (.fault r)
  | refused (r : Refusal) : EndsAlike (.refused r) (.refused r)

/-- A test that answers alike in both states, whose branches end alike. -/
theorem EndsAlike.ite {c c' : Prop} [Decidable c] [Decidable c'] {x y x' y' : Host.Outcome State Fault Refusal}
    (hc : c' ↔ c) (hx : c → EndsAlike x x') (hy : ¬ c → EndsAlike y y') :
    EndsAlike (if c then x else y) (if c' then x' else y') := by
  by_cases h : c
  · rw [if_pos h, if_pos (hc.2 h)]
    exact hx h
  · rw [if_neg h, if_neg (mt hc.1 h)]
    exact hy h

theorem EndsAlike.next_of_next {o o' : Host.Outcome State Fault Refusal} (h : EndsAlike o o') (ho : o = .next t) :
    ∃ t', o' = .next t' ∧ t'.dec = t.dec := by
  subst ho
  cases h with
  | next hst => exact ⟨_, rfl, hst.dec⟩

/-! ## The updates that DEC makes -/

theorem sameDec_putPixel (h : SameDec s s') (px : Pixel) : SameDec (putPixel s px) (putPixel s' px) :=
  ⟨by simp only [putPixel, h.dec, h.cfg], h.cfg⟩

theorem sameDec_putPixels (h : SameDec s s') (px : Pixel) (k : Nat) : SameDec (putPixels s px k) (putPixels s' px k) := by
  induction k generalizing s s' with
  | zero => exact h
  | succ k ih => exact ih (sameDec_putPixel h px)

theorem sameDec_setPrev (h : SameDec s s') (px : Pixel) : SameDec (setPrev s px) (setPrev s' px) :=
  ⟨by simp only [setPrev, h.dec], h.cfg⟩

theorem sameDec_advance (h : SameDec s s') (len : Nat) : SameDec (advance s len) (advance s' len) :=
  ⟨by simp only [advance, h.dec, h.cfg], h.cfg⟩

/-- The error's registers do not depend on what DEC_OUT's bytes become (60_exceptions.md R208, R209). -/
theorem sameDec_raiseErr (h : SameDec s s') (e : DecErr) (off : Word64) :
    SameDec (raiseErr s e off) (raiseErr s' e off) :=
  ⟨by simp only [raiseErr, spoilOutput_dec, h.dec], h.cfg⟩

theorem SameDec.opcodeFits_iff (h : SameDec s s') (len : Nat) : opcodeFits s' len = true ↔ opcodeFits s len = true := by
  rw [opcodeFits, opcodeFits, h.dec]

/-! ## The ways a step ends -/

/-- An error at the cursor ends both steps alike. -/
theorem SameDec.ends_raiseErr (h : SameDec s s') (e : DecErr) :
    EndsAlike (.next (raiseErr s e s.dec.cursor)) (.next (raiseErr s' e s'.dec.cursor)) := by
  rw [h.dec]
  exact .next (sameDec_raiseErr h e _)

theorem SameDec.ends_retire (h : SameDec s s') (px : Pixel) (len : Nat) :
    EndsAlike (retire s px len) (retire s' px len) := by
  rw [retire, retire, h.dec]
  cases s.dec.outBuf with
  | none => exact .fault _
  | some out => exact .next (sameDec_advance (sameDec_setPrev (sameDec_putPixel h px) px) len)

theorem SameDec.ends_retireRun (h : SameDec s s') (k : Nat) : EndsAlike (retireRun s k) (retireRun s' k) := by
  rw [retireRun, retireRun, h.dec]
  cases s.dec.outBuf with
  | none => exact .fault _
  | some out => exact .next (sameDec_advance (sameDec_putPixels h _ k) 1)

/-! ## The opcodes -/

theorem SameDec.ends_execDiff (h : SameDec s s') (dr dg db : Int) :
    EndsAlike (execDiff dr dg db s) (execDiff dr dg db s') := by
  have hpx : addDeltas s'.cfg.deltaOverflow s'.dec.prev dr dg db = addDeltas s.cfg.deltaOverflow s.dec.prev dr dg db := by
    rw [h.cfg, h.dec]
  rw [execDiff, execDiff, hpx]
  cases addDeltas s.cfg.deltaOverflow s.dec.prev dr dg db with
  | none => exact h.ends_raiseErr _
  | some px => exact h.ends_retire px 1

theorem SameDec.ends_execLuma (h : SameDec s s') (dg drDg dbDg : Int) :
    EndsAlike (execLuma dg drDg dbDg s) (execLuma dg drDg dbDg s') := by
  have hpx : addDeltas s'.cfg.deltaOverflow s'.dec.prev (drDg + dg) dg (dbDg + dg) =
      addDeltas s.cfg.deltaOverflow s.dec.prev (drDg + dg) dg (dbDg + dg) := by
    rw [h.cfg, h.dec]
  rw [execLuma, execLuma, hpx]
  refine .ite (h.opcodeFits_iff 2) (fun _ => ?_) (fun _ => h.ends_raiseErr _)
  cases addDeltas s.cfg.deltaOverflow s.dec.prev (drDg + dg) dg (dbDg + dg) with
  | none => exact h.ends_raiseErr _
  | some px => exact h.ends_retire px 2

theorem SameDec.ends_execRun (h : SameDec s s') (n : Nat) : EndsAlike (execRun n s) (execRun n s') := by
  have hm : missing s'.dec = missing s.dec := congrArg missing h.dec
  rw [execRun, execRun, hm, h.cfg]
  exact .ite Iff.rfl (fun _ => h.ends_raiseErr _) (fun _ => h.ends_retireRun _)

/-- An opcode ends alike in two states that agree on DEC and on the parameters. -/
theorem SameDec.ends_exec (h : SameDec s s') (i : Instr) : EndsAlike (exec i s) (exec i s') := by
  cases i with
  | rgba r g b a => exact .ite (h.opcodeFits_iff 5) (fun _ => h.ends_retire _ 5) (fun _ => h.ends_raiseErr _)
  | rgb r g b =>
    rw [exec, exec, execRgb, execRgb]
    refine .ite (h.opcodeFits_iff 4) (fun _ => ?_) (fun _ => h.ends_raiseErr _)
    rw [h.dec]
    exact h.ends_retire _ 4
  | index k =>
    rw [exec, exec, execIndex, execIndex, h.dec]
    exact h.ends_retire _ 1
  | diff dr dg db => exact h.ends_execDiff dr dg db
  | luma dg drDg dbDg => exact h.ends_execLuma dg drDg dbDg
  | run n => exact h.ends_execRun n

/-! ## The bytes of DEC_IN -/

/-- The two states hold the same bytes in DEC_IN. -/
def SameStream (s s' : State) : Prop :=
  ∀ a, covers (decInBuffer s.dec) a = true → readByte s'.mem a = readByte s.mem a

/-- Stream byte `i` reads alike while it lies before the end of DEC_IN. -/
theorem SameStream.readByte_eq (hs : SameStream s s') {base i : Nat} (hin : s.dec.inBuf = some base)
    (hi : i < s.dec.inLen.toNat) : readByte s'.mem (base + i) = readByte s.mem (base + i) := by
  apply hs
  simpa [covers_true, decInBuffer, hin, bufBase, bufSize] using hi

/-- BODY_END does not pass the end of DEC_IN (10_state.md R31). -/
theorem DecJobOk.bodyEnd_le_inLen {cfg : Config} {d : Dec} (h : DecJobOk cfg d) : d.bodyEnd.toNat ≤ d.inLen.toNat := by
  have hlen : d.l.toNat = d.inLen.toNat := congrArg BitVec.toNat h.length
  have hheader := h.header
  have hbody := h.bodyEnd
  omega

theorem streamByte_eq (h : SameDec s s') (hs : SameStream s s') (job : DecJobOk s.cfg s.dec) {base : Nat}
    (hin : s.dec.inBuf = some base) (i : Nat) : streamByte s' base i = streamByte s base i := by
  have hbody := job.bodyEnd_le_inLen
  rw [streamByte, streamByte, h.dec]
  split
  · rw [Nat.add_assoc]
    exact hs.readByte_eq hin (by omega)
  · rfl

theorem fetchOpcode_eq (h : SameDec s s') (hs : SameStream s s') (job : DecJobOk s.cfg s.dec) {base : Nat}
    (hin : s.dec.inBuf = some base) : fetchOpcode s' base = fetchOpcode s base := by
  have hw : fetchWindow s' base = fetchWindow s base := by
    simp only [fetchWindow, streamByte_eq h hs job hin]
  rw [fetchOpcode, fetchOpcode, hw]

/-- A trailer of acceptable length lies before the end of the stream (42_decoder.md R172). -/
theorem trailer_le_length (h : trailerLengthOk s = true) : s.dec.cursor.toNat + 8 ≤ s.dec.l.toNat := by
  unfold trailerLengthOk at h
  split at h
  · exact of_decide_eq_true h
  · exact (of_decide_eq_true h).le

theorem readTrailer_eq (hs : SameStream s s') (job : DecJobOk s.cfg s.dec) {base : Nat} (hin : s.dec.inBuf = some base)
    (hlen : trailerLengthOk s = true) :
    readBytes s'.mem (base + s.dec.cursor.toNat) 8 = readBytes s.mem (base + s.dec.cursor.toNat) 8 := by
  have hl : s.dec.l.toNat = s.dec.inLen.toNat := congrArg BitVec.toNat job.length
  have hle := trailer_le_length hlen
  refine readBytes_congr _ _ _ _ _ fun i hi => ?_
  rw [Nat.add_assoc]
  exact hs.readByte_eq hin (by omega)

/-! ## The step -/

theorem ends_decStep (h : SameDec s s') (hs : SameStream s s') (job : DecJobOk s.cfg s.dec) :
    EndsAlike (decStep s) (decStep s') := by
  obtain ⟨base, hin⟩ := Option.ne_none_iff_exists'.1 job.attached
  obtain ⟨i, hi⟩ := fetchOpcode_isSome s base
  have hin' : s'.dec.inBuf = some base := h.dec ▸ hin
  have hi' : fetchOpcode s' base = some i := (fetchOpcode_eq h hs job hin).trans hi
  simp only [decStep, hin, hin', hi, hi']
  exact .ite (by rw [h.dec]) (fun _ => h.ends_raiseErr _) (fun _ => h.ends_exec i)

theorem ends_decTrailer (h : SameDec s s') (hs : SameStream s s') (job : DecJobOk s.cfg s.dec) :
    EndsAlike (decTrailer s) (decTrailer s') := by
  obtain ⟨base, hin⟩ := Option.ne_none_iff_exists'.1 job.attached
  have hin' : s'.dec.inBuf = some base := h.dec ▸ hin
  have hlen : trailerLengthOk s' = trailerLengthOk s := by
    rw [trailerLengthOk, trailerLengthOk, h.dec, h.cfg]
  simp only [decTrailer, hin, hin', hlen]
  refine .ite Iff.rfl (fun _ => h.ends_raiseErr _) (fun hok => ?_)
  have hmark := readTrailer_eq hs job hin (by simpa using hok)
  exact .ite (by rw [h.dec, hmark]) (fun _ => .next ⟨by rw [h.dec], h.cfg⟩) (fun _ => h.ends_raiseErr _)

/-- A step of DEC in a running job ends alike where DEC, the parameters and the bytes of DEC_IN agree. -/
theorem ends_decAct (h : SameDec s s') (hs : SameStream s s') (job : DecJobOk s.cfg s.dec) (hb : s.dec.phase = .busy) :
    EndsAlike (decAct s) (decAct s') := by
  have hb' : s'.dec.phase = .busy := h.dec ▸ hb
  by_cases hp : s.dec.produced.toNat < s.dec.n.toNat
  · rw [decAct_opcode hb hp, decAct_opcode hb' (h.dec ▸ hp)]
    exact ends_decStep h hs job
  · rw [decAct_trailer hb hp, decAct_trailer hb' (h.dec ▸ hp)]
    exact ends_decTrailer h hs job

/-- Settles O26: both steps end alike, so where one answers a next state the other does. -/
theorem decodeStepReadsOnlyItsStream : Obligations.DecodeStepReadsOnlyItsStream := by
  unfold Obligations.DecodeStepReadsOnlyItsStream
  intro s s' t hinv hb hdec hcfg hs ht
  exact (ends_decAct ⟨hdec, hcfg⟩ hs (hinv.dec hb) hb).next_of_next ht

end Sys2Proof.Machine
end

section
/-!
An engine writes no byte outside its output buffer (20_memory.md R50, R63). ENC's bytes fit because the pixels coded pay for
them; DEC's because PRODUCED and the pixels written do not pass N.
-/

namespace Sys2Proof.Machine

variable {s t : State}

theorem sameOutsideBuffer_refl (m : Memory) (b : Option Buffer) : SameOutsideBuffer m m b := fun _ _ => rfl

/-! ## The encoder -/

/-- Bytes that fit ENC_OUT are emitted inside it. -/
theorem emit_sameOutsideBuffer {bs : List Byte} (h : s.enc.outLen.toNat + bs.length ≤ bufSize s.enc.outBuf) :
    SameOutsideBuffer s.mem (emit s bs).mem s.enc.outBuf := by
  intro a ha
  rw [covers_false] at ha
  rw [emit_mem]
  exact readByte_writeBytes_outside _ _ _ _ (by omega)

/-- What a pixel step emits fits ENC_OUT (R63): nothing, or at most the five bytes of each pixel that it settles. -/
theorem planPixel_fits (job : EncJobOk s.cfg s.enc) (hp : s.enc.pos.toNat < s.enc.n.toNat) (px : Pixel) (last : Bool) :
    s.enc.outLen.toNat + ((planPixel s.enc px last).opcodes.flatMap encode).length ≤ bufSize s.enc.outBuf := by
  have hemitted := job.emitted
  have hout := job.outSize
  rcases planPixel_cases s.enc px last with ⟨_, hops, _, _⟩ | ⟨_, hops⟩
  · rw [hops, List.flatMap_nil, List.length_nil]
    omega
  · omega

/-- At the last pixel the run was flushed, so the finish step emits the end marker alone (41_encoder.md R125, R136). -/
theorem pendingRun_eq_nil (job : EncJobOk s.cfg s.enc) (hp : s.enc.n.toNat ≤ s.enc.pos.toNat) : pendingRun s.enc = [] := by
  have hrun : s.enc.run = 0 := job.flushed (le_antisymm job.pos hp)
  rw [pendingRun, hrun]
  rfl

theorem encAct_writes_encOut (h : Inv s) (ht : encAct s = .next t) : SameOutsideBuffer s.mem t.mem s.enc.outBuf := by
  rcases encAct_cases ht with ⟨_, rfl⟩ | ⟨hb, hp, _, _, rfl⟩ | ⟨hb, hp, _, rfl⟩
  · exact sameOutsideBuffer_refl _ _
  · exact emit_sameOutsideBuffer (planPixel_fits (h.enc hb) hp _ _)
  · have job := h.enc hb
    have hemitted := job.emitted
    have hout := job.outSize
    have hpos := job.pos
    have hmark : s.enc.outLen.toNat + endMarker.length ≤ bufSize s.enc.outBuf := by
      rw [show endMarker.length = 8 from rfl]
      omega
    rw [pendingRun_eq_nil job hp, emitOpcodes, List.flatMap_nil, emit_nil]
    exact emit_sameOutsideBuffer hmark

/-! ## The decoder -/

/-- Missing pixels are written inside DEC_OUT. -/
theorem putPixels_sameOutsideBuffer (hw : 64 ≤ s.cfg.counterWidth) (job : DecJobOk s.cfg s.dec) {k : Nat}
    (hk : s.dec.produced.toNat + k ≤ s.dec.n.toNat) (px : Pixel) :
    SameOutsideBuffer s.mem (putPixels s px k).mem s.dec.outBuf := by
  intro a ha
  rw [covers_false] at ha
  have hn : s.dec.produced.toNat + k < 2 ^ 64 := lt_of_le_of_lt hk s.dec.n.isLt
  have hend : (s.dec.produced.toNat + k) * s.dec.channels.toNat ≤ bufSize s.dec.outBuf :=
    (Nat.mul_le_mul_right _ hk).trans job.outSize
  refine putPixels_readByte_outside px k s (lt_of_lt_of_le hn (Nat.pow_le_pow_right (by norm_num) hw)) hn a ?_
  rw [decPixelAddr, decPixelAddr, pixelSize_eq job.channels]
  omega

theorem decTrailer_writes_decOut (ht : decTrailer s = .next t) : SameOutsideBuffer s.mem t.mem s.dec.outBuf := by
  rcases decTrailer_cases ht with rfl | ⟨_, _, _, _, rfl⟩
  · exact raiseErr_readByte s _ _
  · exact sameOutsideBuffer_refl _ _

theorem decAct_writes_decOut (h : Inv s) (ht : decAct s = .next t) : SameOutsideBuffer s.mem t.mem s.dec.outBuf := by
  rcases decAct_cases ht with ⟨_, rfl⟩ | ⟨hb, hp, _⟩ | ⟨_, _, htrailer⟩
  · exact sameOutsideBuffer_refl _ _
  · rcases decAct_opcode_cases hb hp ht with ⟨e, rfl⟩ | ⟨len, k, px, _, _, _, hmissing, rfl⟩
    · exact raiseErr_readByte s e _
    · exact putPixels_sameOutsideBuffer h.wide (h.dec hb) hmissing px
  · exact decTrailer_writes_decOut htrailer

/-- Settles O56, engine by engine. -/
theorem enginesWriteOnlyTheirOutput : Obligations.EnginesWriteOnlyTheirOutput := by
  unfold Obligations.EnginesWriteOnlyTheirOutput
  exact fun _ _ h => ⟨encAct_writes_encOut h, decAct_writes_decOut h⟩

end Sys2Proof.Machine
end

section
/-!
The buffers of a BUSY engine are the engine's (20_memory.md R60, 60_exceptions.md R216, row 4): when a byte access by the host
and a START are refused.
-/

namespace Sys2Proof.Machine

variable {s : State} {a : Nat}

/-- A host write into a buffer of a BUSY engine is refused, whichever engine is the first to refuse it. -/
theorem hostWrite_refused (v : Byte)
    (h : (s.enc.phase = .busy ∧ (covers s.enc.inBuf a = true ∨ covers s.enc.outBuf a = true)) ∨
      (s.dec.phase = .busy ∧ (covers (decInBuffer s.dec) a = true ∨ covers s.dec.outBuf a = true))) :
    ∃ r, hostWrite s a v = .refused r := by
  by_cases he : (encBusy s && (covers s.enc.inBuf a || covers s.enc.outBuf a)) = true
  · exact ⟨_, if_pos he⟩
  · have hd : (decBusy s && (covers (decInBuffer s.dec) a || covers s.dec.outBuf a)) = true := by
      simpa [decBusy] using h.resolve_left (by simpa [encBusy] using he)
    exact ⟨_, (if_neg he).trans (if_pos hd)⟩

/-- A host read of the output buffer of a BUSY engine is refused. -/
theorem hostRead_refused
    (h : (s.enc.phase = .busy ∧ covers s.enc.outBuf a = true) ∨ (s.dec.phase = .busy ∧ covers s.dec.outBuf a = true)) :
    ∃ r, hostRead s a = .refused r := by
  by_cases he : (encBusy s && covers s.enc.outBuf a) = true
  · exact ⟨_, if_pos he⟩
  · have hd : (decBusy s && covers s.dec.outBuf a) = true := by
      simpa [decBusy] using h.resolve_left (by simpa [encBusy] using he)
    exact ⟨_, (if_neg he).trans (if_pos hd)⟩

/-- A register write is refused where its store is: the engine may be BUSY, which is refused as well. -/
theorem writeReg_refused {r : Reg} {v : Word64} (h : ∃ x, storeReg s r v = .refused x) :
    ∃ x, writeReg s r v = .refused x := by
  unfold writeReg
  split
  · exact ⟨_, rfl⟩
  · exact h

/-- START of DEC on buffers of a BUSY ENC is refused before the header is read (log entry 10). -/
theorem storeReg_decCtrl_overlap {w : Word64} (hw : w.getLsbD 0 = true) (hb : s.enc.phase = .busy)
    (ho : enginesOverlap s = true) : storeReg s .decCtrl w = .refused .enginesOverlap := by
  rw [storeReg, if_pos hw, decStart, if_pos (by simp [encBusy, hb, ho])]

/-- START of ENC on buffers of a BUSY DEC is refused before the configuration is checked (log entry 10). -/
theorem storeReg_encCtrl_overlap {w : Word64} (hw : w.getLsbD 0 = true) (hb : s.dec.phase = .busy)
    (ho : enginesOverlap s = true) : storeReg s .encCtrl w = .refused .enginesOverlap := by
  rw [storeReg, if_pos hw, encStart, if_pos (by simp [decBusy, hb, ho])]

/-- Settles O47: the byte accesses, then the two STARTs. -/
theorem busyBuffersAreTheEngines : Obligations.BusyBuffersAreTheEngines := by
  unfold Obligations.BusyBuffersAreTheEngines
  intro s a v w
  exact
    ⟨fun hb hc => hostWrite_refused v (.inl ⟨hb, hc⟩),
      fun hb hc => hostWrite_refused v (.inr ⟨hb, hc⟩),
      fun hb hc => hostRead_refused (.inl ⟨hb, hc⟩),
      fun hb hc => hostRead_refused (.inr ⟨hb, hc⟩),
      fun hw hb ho => writeReg_refused ⟨_, storeReg_decCtrl_overlap hw hb ho⟩,
      fun hw hb ho => writeReg_refused ⟨_, storeReg_encCtrl_overlap hw hb ho⟩⟩

end Sys2Proof.Machine
end

section
/-!
A bus access is the access to the register that REG_MAP places at the address (20_memory.md R58): one equation per kind of
entry, for the write and for the read.
-/

namespace Sys2Proof.Machine

variable {s : State} {a : Nat}

theorem busWrite_num {r : Reg} (h : mappedReg s.cfg a = some (.num r)) (w : Word64) :
    busWrite s a w = writeReg s r w := by
  rw [busWrite, h]

theorem busWrite_handle {b : BufName} (h : mappedReg s.cfg a = some (.handle b)) (w : Word64) :
    busWrite s a w = setBuffer s b (Config.handleOfWord w) := by
  rw [busWrite, h]

theorem busWrite_unmapped (h : mappedReg s.cfg a = none) (w : Word64) : busWrite s a w = .next s := by
  rw [busWrite, h]

theorem busRead_num {r : Reg} (h : mappedReg s.cfg a = some (.num r)) : busRead s a = readReg s r := by
  rw [busRead, h]

theorem busRead_handle {b : BufName} (h : mappedReg s.cfg a = some (.handle b)) :
    busRead s a = { s with hostData := Config.wordOfHandle (bufValue s b) } := by
  rw [busRead, h]

theorem busRead_unmapped (h : mappedReg s.cfg a = none) :
    busRead s a = { s with hostData := Config.unmappedBusWord s.freeCount a, freeCount := s.freeCount + 1 } := by
  rw [busRead, h]

/-- Settles O51: the first entry of the address is what REG_MAP maps there, and each kind of entry has its equation. -/
theorem busAccessReachesRegisters : Obligations.BusAccessReachesRegisters := by
  unfold Obligations.BusAccessReachesRegisters
  refine fun s a w => ⟨fun l1 l2 hr hmap hfirst => ?_, fun hnone => ?_⟩
  · have hm := mappedReg_first hmap hfirst
    constructor
    · rintro r rfl
      exact ⟨busWrite_num hm w, congrArg _ (busRead_num hm)⟩
    · rintro b rfl
      exact ⟨busWrite_handle hm w, congrArg _ (busRead_handle hm)⟩
  · have hm := mappedReg_none hnone
    exact ⟨busWrite_unmapped hm w, congrArg _ (busRead_unmapped hm)⟩

end Sys2Proof.Machine
end

section
/-!
The fields of a byte as numbers: the tag, the payload and the biased operands (30_encoding.md R74, R81), and what the decoder
reads for each range of first bytes (R83). The codec's statements speak of ranges, the decoder of bits; the lemmas here are
the one place where the two meet.
-/

namespace Sys2Proof.Machine

/-! ## Bit fields -/

theorem tagOf_eq_iff {b : Byte} (n : Nat) (hn : n < 4) : tagOf b = BitVec.ofNat 2 n ↔ b.toNat / 64 = n := by
  have := b.isLt
  rw [← BitVec.toNat_inj, tagOf, BitVec.extractLsb'_toNat, Nat.shiftRight_eq_div_pow, BitVec.toNat_ofNat]
  omega

theorem payloadOf_toNat (b : Byte) : (payloadOf b).toNat = b.toNat % 64 := by
  simp [payloadOf]

theorem payloadOf_eq_setWidth (b : Byte) : payloadOf b = b.setWidth 6 := by
  apply BitVec.eq_of_toNat_eq
  rw [payloadOf_toNat, BitVec.toNat_setWidth]

theorem unbias_eq (b : Byte) (lo w : Nat) (bias : Int) :
    unbias b lo w bias = ((b.toNat / 2 ^ lo % 2 ^ w : Nat) : Int) - bias := by
  simp only [unbias, BitVec.extractLsb'_toNat, Nat.shiftRight_eq_div_pow]

/-- A byte is the integer that it holds. -/
theorem byteOfInt_eq {b : Byte} {z : Int} (h : z = b.toNat) : byteOfInt z = b := by
  apply BitVec.eq_of_toNat_eq
  have := byteOfInt_toNat z
  omega

/-- An integer in [0, 255] is what its byte holds. -/
theorem byteOfInt_toNat_of_fits {z : Int} (h0 : 0 ≤ z) (h1 : z ≤ 255) : ((byteOfInt z).toNat : Int) = z := by
  rw [byteOfInt_toNat]
  omega

/-! ## The operands as numbers (R81) -/

theorem decodeDiff_eq (b : Byte) :
    decodeDiff b =
      .diff ((b.toNat / 16 % 4 : Nat) - 2) ((b.toNat / 4 % 4 : Nat) - 2) ((b.toNat % 4 : Nat) - 2) := by
  simp [decodeDiff, unbias_eq]

/-- The LUMA that the two bytes spell: what `decodeLuma` reads, as `decodeDiff` and `decodeRun` are for theirs. -/
def lumaOf (b x : Byte) : Instr := .luma (unbias b 0 6 32) (unbias x 4 4 8) (unbias x 0 4 8)

theorem decodeLuma_cons (b x : Byte) (rest : List Byte) : decodeLuma b (x :: rest) = .ok (lumaOf b x, rest) := rfl

theorem lumaOf_eq (b x : Byte) :
    lumaOf b x = .luma ((b.toNat % 64 : Nat) - 32) ((x.toNat / 16 : Nat) - 8) ((x.toNat % 16 : Nat) - 8) := by
  have hx : x.toNat / 16 % 16 = x.toNat / 16 := Nat.mod_eq_of_lt (by have := x.isLt; omega)
  simp [lumaOf, unbias_eq, hx]

theorem decodeRun_eq (b : Byte) : decodeRun b = .run (b.toNat % 64 + 1) := by
  rw [decodeRun, payloadOf_toNat]

/-! ## The opcode of each range of first bytes (R83) -/

theorem ne_of_toNat_le {b c : Byte} {n : Nat} (h : b.toNat ≤ n) (hc : n < c.toNat) : b ≠ c := by
  rintro rfl
  omega

variable {b : Byte}

theorem decode_first_00_3F (h : b.toNat ≤ 0x3F) (rest : List Byte) :
    decode (b :: rest) = .ok (.index (payloadOf b), rest) :=
  decode_index (ne_of_toNat_le h (by decide)) (ne_of_toNat_le h (by decide)) ((tagOf_eq_iff 0 (by decide)).2 (by omega)) rest

theorem decode_first_40_7F (h : 0x40 ≤ b.toNat) (h' : b.toNat ≤ 0x7F) (rest : List Byte) :
    decode (b :: rest) = .ok (decodeDiff b, rest) :=
  decode_diff (ne_of_toNat_le h' (by decide)) (ne_of_toNat_le h' (by decide)) ((tagOf_eq_iff 1 (by decide)).2 (by omega)) rest

theorem decode_first_80_BF (h : 0x80 ≤ b.toNat) (h' : b.toNat ≤ 0xBF) (rest : List Byte) :
    decode (b :: rest) = decodeLuma b rest :=
  decode_luma (ne_of_toNat_le h' (by decide)) (ne_of_toNat_le h' (by decide)) ((tagOf_eq_iff 2 (by decide)).2 (by omega)) rest

theorem decode_first_C0_FD (h : 0xC0 ≤ b.toNat) (h' : b.toNat ≤ 0xFD) (rest : List Byte) :
    decode (b :: rest) = .ok (decodeRun b, rest) :=
  decode_run (ne_of_toNat_le h' (by decide)) (ne_of_toNat_le h' (by decide)) ((tagOf_eq_iff 3 (by decide)).2 (by omega)) rest

theorem decode_first_FE (h : b.toNat = 0xFE) (rest : List Byte) : decode (b :: rest) = decodeRgb rest := by
  obtain rfl : b = 0xFE := BitVec.eq_of_toNat_eq h
  rfl

theorem decode_first_FF (h : b.toNat = 0xFF) (rest : List Byte) : decode (b :: rest) = decodeRgba rest := by
  obtain rfl : b = 0xFF := BitVec.eq_of_toNat_eq h
  rfl

/-- The four tags and the two full bytes leave no first byte without an opcode (R83). -/
theorem first_byte_ranges (b : Byte) :
    b.toNat ≤ 0x3F ∨ (0x40 ≤ b.toNat ∧ b.toNat ≤ 0x7F) ∨ (0x80 ≤ b.toNat ∧ b.toNat ≤ 0xBF) ∨
    (0xC0 ≤ b.toNat ∧ b.toNat ≤ 0xFD) ∨ b.toNat = 0xFE ∨ b.toNat = 0xFF := by
  have := b.isLt
  omega

/-- Settles O3: one range of first bytes after the other, with the operands as numbers. -/
theorem firstByteSelectsOpcode : Obligations.FirstByteSelectsOpcode := by
  unfold Obligations.FirstByteSelectsOpcode
  intro b x1 x2 x3 x4
  refine ⟨fun h => ?index, fun h => ?diff, fun h => ?luma, fun h => ?run, fun h => ?rgb, fun h => ?rgba⟩
  case index => rw [decode_first_00_3F h, payloadOf_eq_setWidth]
  case diff => rw [decode_first_40_7F h.1 h.2, decodeDiff_eq]
  case luma => rw [decode_first_80_BF h.1 h.2, decodeLuma_cons, lumaOf_eq]
  case run => rw [decode_first_C0_FD h.1 h.2, decodeRun_eq]
  case rgb => exact decode_first_FE h _
  case rgba => exact decode_first_FF h _

end Sys2Proof.Machine
end

section
/-!
Encoding and decoding are inverse to each other (30_encoding.md R81, R84, R87). The one idea, in both directions: each byte is
the integer that R87's formula gives, and division takes its fields apart; the ranges of the operands are what the fields hold.
-/

namespace Sys2Proof.Machine

/-! ## The ranges of R87 -/

theorem wf_diff_iff {dr dg db : Int} :
    (Instr.diff dr dg db).wf = true ↔ (-2 ≤ dr ∧ dr ≤ 1) ∧ (-2 ≤ dg ∧ dg ≤ 1) ∧ (-2 ≤ db ∧ db ≤ 1) := by
  simp [Instr.wf, inRange_iff, and_assoc]

theorem wf_luma_iff {dg drDg dbDg : Int} :
    (Instr.luma dg drDg dbDg).wf = true ↔
      (-32 ≤ dg ∧ dg ≤ 31) ∧ (-8 ≤ drDg ∧ drDg ≤ 7) ∧ (-8 ≤ dbDg ∧ dbDg ≤ 7) := by
  simp [Instr.wf, inRange_iff, and_assoc]

theorem wf_run_iff {n : Nat} : (Instr.run n).wf = true ↔ 1 ≤ n ∧ n ≤ 62 := by
  simp [Instr.wf]

/-! ## Decoding what was encoded, one lemma per opcode whose bytes are computed -/

theorem decode_encode_index (k : Slot) (rest : List Byte) : decode (encode (.index k) ++ rest) = .ok (.index k, rest) := by
  have hk := k.isLt
  have hb := byteOfInt_toNat_of_fits (z := 0x00 + k.toNat) (by omega) (by omega)
  have hp : payloadOf (byteOfInt (0x00 + k.toNat)) = k := by
    apply BitVec.eq_of_toNat_eq
    rw [payloadOf_toNat]
    omega
  rw [encode, List.singleton_append, decode_first_00_3F (by omega), hp]

theorem decode_encode_diff {dr dg db : Int} (h : (Instr.diff dr dg db).wf = true) (rest : List Byte) :
    decode (encode (.diff dr dg db) ++ rest) = .ok (.diff dr dg db, rest) := by
  obtain ⟨hr, hg, hb⟩ := wf_diff_iff.1 h
  have e := byteOfInt_toNat_of_fits (z := 0x40 + (dr + 2) * 16 + (dg + 2) * 4 + (db + 2)) (by omega) (by omega)
  rw [encode, List.singleton_append, decode_first_40_7F (by omega) (by omega), decodeDiff_eq]
  congr <;> omega

theorem decode_encode_luma {dg drDg dbDg : Int} (h : (Instr.luma dg drDg dbDg).wf = true) (rest : List Byte) :
    decode (encode (.luma dg drDg dbDg) ++ rest) = .ok (.luma dg drDg dbDg, rest) := by
  obtain ⟨hg, hr, hb⟩ := wf_luma_iff.1 h
  have e1 := byteOfInt_toNat_of_fits (z := 0x80 + (dg + 32)) (by omega) (by omega)
  have e2 := byteOfInt_toNat_of_fits (z := (drDg + 8) * 16 + (dbDg + 8)) (by omega) (by omega)
  rw [encode, List.cons_append, List.singleton_append, decode_first_80_BF (by omega) (by omega), decodeLuma_cons, lumaOf_eq]
  congr <;> omega

theorem decode_encode_run {n : Nat} (h : (Instr.run n).wf = true) (rest : List Byte) :
    decode (encode (.run n) ++ rest) = .ok (.run n, rest) := by
  obtain ⟨h1, h62⟩ := wf_run_iff.1 h
  have e := byteOfInt_toNat_of_fits (z := 0xC0 + ((n : Int) - 1)) (by omega) (by omega)
  rw [encode, List.singleton_append, decode_first_C0_FD (by omega) (by omega), decodeRun_eq]
  congr
  omega

/-- Settles O1, by cases on the opcode; the literals' bytes stand in the stream as they are. -/
theorem decodeInvertsEncode : Obligations.DecodeInvertsEncode := by
  unfold Obligations.DecodeInvertsEncode
  intro i rest h
  cases i with
  | rgba r g b a => exact decode_rgba r g b a rest
  | rgb r g b => exact decode_rgb r g b rest
  | index k => exact decode_encode_index k rest
  | diff dr dg db => exact decode_encode_diff h rest
  | luma dg drDg dbDg => exact decode_encode_luma h rest
  | run n => exact decode_encode_run h rest

/-! ## Encoding what was decoded, one lemma per opcode whose operands are fields of a byte -/

theorem encode_index_payloadOf {b : Byte} (ht : tagOf b = 0b00) : encode (.index (payloadOf b)) = [b] := by
  have hb : b.toNat / 64 = 0 := (tagOf_eq_iff _ (by decide)).1 ht
  rw [encode, payloadOf_toNat, byteOfInt_eq (b := b) (by omega)]

theorem decodeDiff_wf (b : Byte) : (decodeDiff b).wf = true := by
  rw [decodeDiff_eq, wf_diff_iff]
  omega

theorem encode_decodeDiff {b : Byte} (ht : tagOf b = 0b01) : encode (decodeDiff b) = [b] := by
  have hb : b.toNat / 64 = 1 := (tagOf_eq_iff _ (by decide)).1 ht
  rw [decodeDiff_eq, encode, byteOfInt_eq (b := b) (by omega)]

theorem lumaOf_wf (b x : Byte) : (lumaOf b x).wf = true := by
  have := x.isLt
  rw [lumaOf_eq, wf_luma_iff]
  omega

theorem encode_lumaOf {b : Byte} (ht : tagOf b = 0b10) (x : Byte) : encode (lumaOf b x) = [b, x] := by
  have hb : b.toNat / 64 = 2 := (tagOf_eq_iff _ (by decide)).1 ht
  rw [lumaOf_eq, encode, byteOfInt_eq (b := b) (by omega), byteOfInt_eq (b := x) (by omega)]

theorem decodeRun_wf {b : Byte} (ht : tagOf b = 0b11) (h1 : b ≠ 0xFF) (h2 : b ≠ 0xFE) : (decodeRun b).wf = true := by
  have hb : b.toNat / 64 = 3 := (tagOf_eq_iff _ (by decide)).1 ht
  have hFF : b.toNat ≠ 0xFF := fun h => h1 (BitVec.eq_of_toNat_eq h)
  have hFE : b.toNat ≠ 0xFE := fun h => h2 (BitVec.eq_of_toNat_eq h)
  have := b.isLt
  rw [decodeRun_eq, wf_run_iff]
  omega

theorem encode_decodeRun {b : Byte} (ht : tagOf b = 0b11) : encode (decodeRun b) = [b] := by
  have hb : b.toNat / 64 = 3 := (tagOf_eq_iff _ (by decide)).1 ht
  rw [decodeRun_eq, encode, byteOfInt_eq (b := b) (by omega)]

/-- Settles O2, by what the decoder can read (`decode_cases`). -/
theorem encodeInvertsDecode : Obligations.EncodeInvertsDecode := by
  unfold Obligations.EncodeInvertsDecode
  intro bs i rest h
  rcases decode_cases h with ⟨r, g, b, a, rfl, rfl⟩ | ⟨r, g, b, rfl, rfl⟩ | ⟨b, ht, rfl, rfl⟩ | ⟨b, ht, rfl, rfl⟩ |
    ⟨b, x, ht, rfl, rfl⟩ | ⟨b, ht, h1, h2, rfl, rfl⟩
  · exact ⟨rfl, rfl⟩
  · exact ⟨rfl, rfl⟩
  · exact ⟨rfl, congrArg (· ++ rest) (encode_index_payloadOf ht)⟩
  · exact ⟨decodeDiff_wf b, congrArg (· ++ rest) (encode_decodeDiff ht)⟩
  · exact ⟨lumaOf_wf b x, congrArg (· ++ rest) (encode_lumaOf ht x)⟩
  · exact ⟨decodeRun_wf ht h1 h2, congrArg (· ++ rest) (encode_decodeRun ht)⟩

end Sys2Proof.Machine
end

section
/-!
The first byte settles how many bytes an opcode takes (30_encoding.md R82): for each range of first bytes, how many operand
bytes its reader takes, and that nothing but too few of them stops it.
-/

namespace Sys2Proof.Machine

/-- Reading `r` out of `rest` takes exactly `n` bytes, and fails as truncated exactly where there are fewer. -/
structure TakesOperands (n : Nat) (rest : List Byte) (r : Except DecodeError (Instr × List Byte)) : Prop where
  read : n ≤ rest.length → ∃ i, r = .ok (i, rest.drop n)
  short : rest.length < n → ∃ m, r = .error (.truncated m)

theorem takesOperands_none (i : Instr) (rest : List Byte) : TakesOperands 0 rest (.ok (i, rest)) :=
  ⟨fun _ => ⟨i, rfl⟩, fun h => absurd h (Nat.not_lt_zero _)⟩

/-- A reader that finds its `n` operand bytes in front. -/
theorem takesOperands_ok {n : Nat} {rest tl : List Byte} {i : Instr} (hn : n ≤ rest.length) (ht : rest.drop n = tl) :
    TakesOperands n rest (.ok (i, tl)) :=
  ⟨fun _ => ⟨i, by rw [ht]⟩, fun h => absurd hn (Nat.not_le.2 h)⟩

theorem takesOperands_truncated {n : Nat} {rest : List Byte} (h : rest.length < n) (m : String) :
    TakesOperands n rest (.error (.truncated m)) :=
  ⟨fun hn => absurd hn (Nat.not_le.2 h), fun _ => ⟨m, rfl⟩⟩

theorem decodeRgba_takes : ∀ rest, TakesOperands 4 rest (decodeRgba rest)
  | _ :: _ :: _ :: _ :: _ => takesOperands_ok (by simp) rfl
  | [] | [_] | [_, _] | [_, _, _] => takesOperands_truncated (by simp) _

theorem decodeRgb_takes : ∀ rest, TakesOperands 3 rest (decodeRgb rest)
  | _ :: _ :: _ :: _ => takesOperands_ok (by simp) rfl
  | [] | [_] | [_, _] => takesOperands_truncated (by simp) _

theorem decodeLuma_takes (b : Byte) : ∀ rest, TakesOperands 1 rest (decodeLuma b rest)
  | _ :: _ => takesOperands_ok (by simp) rfl
  | [] => takesOperands_truncated (by simp) _

/-- The opcode's length as a number of the first byte's range (R82). -/
theorem opcodeLength_eq (b : Byte) :
    opcodeLength b =
      if b.toNat = 0xFF then 5 else if b.toNat = 0xFE then 4 else if 0x80 ≤ b.toNat ∧ b.toNat ≤ 0xBF then 2 else 1 := by
  have htag : tagOf b = 0b10 ↔ 0x80 ≤ b.toNat ∧ b.toNat ≤ 0xBF :=
    (tagOf_eq_iff 2 (by decide)).trans (by omega)
  have hFF : b = 0xFF ↔ b.toNat = 0xFF := BitVec.toNat_inj.symm
  have hFE : b = 0xFE ↔ b.toNat = 0xFE := BitVec.toNat_inj.symm
  simp only [opcodeLength, htag, hFF, hFE]

/-- The opcode takes one byte less than its length from what follows the first byte (R82). -/
theorem decode_takes (b : Byte) (rest : List Byte) : TakesOperands (opcodeLength b - 1) rest (decode (b :: rest)) := by
  have hlen := opcodeLength_eq b
  rcases first_byte_ranges b with h | ⟨h, h'⟩ | ⟨h, h'⟩ | ⟨h, h'⟩ | h | h
  · rw [decode_first_00_3F h, show opcodeLength b = 1 by grind]
    exact takesOperands_none _ _
  · rw [decode_first_40_7F h h', show opcodeLength b = 1 by grind]
    exact takesOperands_none _ _
  · rw [decode_first_80_BF h h', show opcodeLength b = 2 by grind]
    exact decodeLuma_takes b rest
  · rw [decode_first_C0_FD h h', show opcodeLength b = 1 by grind]
    exact takesOperands_none _ _
  · rw [decode_first_FE h, show opcodeLength b = 4 by grind]
    exact decodeRgb_takes rest
  · rw [decode_first_FF h, show opcodeLength b = 5 by grind]
    exact decodeRgba_takes rest

/-- Settles O4: the length is `opcodeLength`, and one byte of it is the first. -/
theorem firstByteSettlesLength : Obligations.FirstByteSettlesLength := by
  unfold Obligations.FirstByteSettlesLength
  intro b rest len hlen
  rw [← opcodeLength_eq] at hlen
  subst hlen
  obtain ⟨read, short⟩ := decode_takes b rest
  exact ⟨fun h => read (by omega), fun h => short (by omega)⟩

end Sys2Proof.Machine
end

section
/-!
The encoder emits only opcodes whose operands their fields can hold (30_encoding.md R86): the tests of R131 and R132 are the
ranges of DIFF and LUMA, and the run counter stays within 62 (10_state.md R24).
-/

namespace Sys2Proof.Machine

theorem differOpcode_wf (prev px : Pixel) : (differOpcode prev px).wf = true := by
  by_cases ha : px.a = prev.a
  · by_cases hd : fitsDiff (delta px.r prev.r) (delta px.g prev.g) (delta px.b prev.b) = true
    · rw [differOpcode_diff ha hd]
      exact hd
    · by_cases hl : fitsLuma (delta px.r prev.r) (delta px.g prev.g) (delta px.b prev.b) = true
      · rw [differOpcode_luma ha hd hl]
        exact hl
      · rw [differOpcode_rgb ha hd hl]
        rfl
  · rw [differOpcode_rgba ha]
    rfl

theorem selectOpcode_wf (c : Cache) (prev px : Pixel) : (selectOpcode c prev px).1.wf = true := by
  by_cases h : cacheRead c (pixelHash px) = px
  · rw [selectOpcode_hit h]
    rfl
  · rw [selectOpcode_miss h]
    exact differOpcode_wf prev px

variable {e : Enc}

theorem pendingRun_wf (h : e.run.toNat ≤ 61) : ∀ i ∈ pendingRun e, i.wf = true := by
  intro i hi
  unfold pendingRun at hi
  split at hi
  · next hpos =>
    obtain rfl := List.mem_singleton.1 hi
    exact wf_run_iff.2 ⟨hpos, by omega⟩
  · cases hi

theorem planRun_wf (h : e.run.toNat ≤ 61) (last : Bool) : ∀ i ∈ (planRun e last).opcodes, i.wf = true := by
  intro i hi
  by_cases hend : e.run.toNat + 1 = 62 ∨ last = true
  · rw [planRun_emit hend] at hi
    obtain rfl := List.mem_singleton.1 hi
    exact wf_run_iff.2 ⟨by omega, by omega⟩
  · rw [planRun_extend hend] at hi
    cases hi

/-- Settles O40: the pixel extends or ends the run, or it is coded after the pending run. -/
theorem emittedOpcodesAreWellFormed : Obligations.EmittedOpcodesAreWellFormed := by
  unfold Obligations.EmittedOpcodesAreWellFormed
  intro e px last h i hi
  by_cases hpx : px = e.prev
  · rw [planPixel_run hpx] at hi
    exact planRun_wf h last i hi
  · rw [planPixel_differ hpx] at hi
    rcases List.mem_append.1 hi with hrun | hsel
    · exact pendingRun_wf h i hrun
    · obtain rfl := List.mem_singleton.1 hsel
      exact selectOpcode_wf e.cache e.prev px

end Sys2Proof.Machine
end

section
/-!
The selected opcode undoes the selection (41_encoder.md R141, 42_decoder.md R170). Two ideas: the signed deltas added back to
PREV are the pixel's own channels, so no sum leaves [0, 255] and the overflow policy has no say; and a hit stores the pixel
where it already stands (40_shared.md R111), so both engines have the cache `cacheWrite c px` after every selection.
-/

namespace Sys2Proof.Machine

/-! ## The deltas added back -/

theorem chan_delta (p : DeltaOverflow) (cur prev : Byte) : chan p (prev.toNat + delta cur prev) = some cur := by
  have sum : (prev.toNat : Int) + delta cur prev = cur.toNat := by
    unfold delta
    omega
  have fits : (0 : Int) ≤ cur.toNat ∧ (cur.toNat : Int) ≤ 255 := by
    have := cur.isLt
    omega
  rw [sum, chan_some (.inr fits), byteOfInt_eq rfl]

theorem addDeltas_delta (p : DeltaOverflow) {prev px : Pixel} (ha : px.a = prev.a) :
    addDeltas p prev (delta px.r prev.r) (delta px.g prev.g) (delta px.b prev.b) = some px := by
  simp only [addDeltas, chan_delta, ← ha]

/-! ## The selected opcode executed -/

variable {s : State} {out : Buffer} {px : Pixel}

/-- The opcode that codes a pixel against PREV yields that pixel, where it is not truncated. -/
theorem exec_differOpcode (hfit : opcodeFits s (instrLength (differOpcode s.dec.prev px)) = true) :
    exec (differOpcode s.dec.prev px) s = retire s px (instrLength (differOpcode s.dec.prev px)) := by
  by_cases ha : px.a = s.dec.prev.a
  · have hadd := addDeltas_delta s.cfg.deltaOverflow ha
    by_cases hd : fitsDiff (delta px.r s.dec.prev.r) (delta px.g s.dec.prev.g) (delta px.b s.dec.prev.b) = true
    · rw [differOpcode_diff ha hd]
      simp only [exec, execDiff, hadd, instrLength]
    · by_cases hl : fitsLuma (delta px.r s.dec.prev.r) (delta px.g s.dec.prev.g) (delta px.b s.dec.prev.b) = true
      · rw [differOpcode_luma ha hd hl] at hfit ⊢
        simp only [instrLength] at hfit
        simp only [exec, execLuma, hfit, if_true, Int.sub_add_cancel, hadd, instrLength]
      · rw [differOpcode_rgb ha hd hl] at hfit ⊢
        simp only [instrLength] at hfit
        simp only [exec, execRgb, hfit, if_true, ← ha, instrLength]
  · rw [differOpcode_rgba ha] at hfit ⊢
    simp only [instrLength] at hfit
    simp only [exec, execRgba, hfit, if_true, instrLength]

/-- The selected opcode yields the pixel it was selected for, where it is not truncated. -/
theorem exec_selectOpcode (hfit : opcodeFits s (instrLength (selectOpcode s.dec.cache s.dec.prev px).1) = true) :
    exec (selectOpcode s.dec.cache s.dec.prev px).1 s =
      retire s px (instrLength (selectOpcode s.dec.cache s.dec.prev px).1) := by
  by_cases h : cacheRead s.dec.cache (pixelHash px) = px
  · rw [selectOpcode_hit h]
    simp only [exec, execIndex, h, instrLength]
  · rw [selectOpcode_miss h] at hfit ⊢
    exact exec_differOpcode hfit

/-- Hit or miss, the encoder's cache after a selection is the one with the pixel stored (40_shared.md R111). -/
theorem selectOpcode_cache (c : Cache) (prev px : Pixel) : (selectOpcode c prev px).2 = cacheWrite c px := by
  by_cases h : cacheRead c (pixelHash px) = px
  · rw [selectOpcode_hit h, cacheWrite_of_hit h]
  · rw [selectOpcode_miss h]

/-! ## The registers after one pixel -/

/-- A pixel written by an opcode that DEC is ready for: PREV, the cache, and the two counters, neither of them cut. -/
theorem OpcodeReady.retire_next {len : Nat} (h : OpcodeReady s out len) (px : Pixel) :
    ∃ t, retire s px len = .next t ∧ t.dec.prev = px ∧ t.dec.cache = cacheWrite s.dec.cache px ∧
      t.dec.produced.toNat = s.dec.produced.toNat + 1 ∧ t.dec.cursor.toNat = s.dec.cursor.toNat + len := by
  have produced : s.dec.produced.toNat + 1 ≤ s.dec.n.toNat := h.missing
  have hn := s.dec.n.isLt
  have hb := s.dec.bodyEnd.isLt
  exact ⟨_, retire_eq h.out px len, rfl, rfl,
    putPixel_produced s px (produced.trans_lt h.countWidth) (produced.trans_lt hn),
    counter_toNat_of_lt (h.fits.trans_lt h.bodyWidth) (h.fits.trans_lt hb)⟩

/-- Settles O44: executing the selected opcode is writing the pixel, whichever opcode was selected. -/
theorem executionInvertsSelection : Obligations.ExecutionInvertsSelection := by
  unfold Obligations.ExecutionInvertsSelection
  intro s out px _ ready
  rw [encode_length] at ready ⊢
  rw [exec_selectOpcode ((opcodeFits_iff _ _).2 ready.fits), selectOpcode_cache]
  exact ready.retire_next px

end Sys2Proof.Machine
end

section
/-!
The shared units (40_shared.md R100, R104, R107): the hash as a number, the slot that a store writes, and the bytes of a
header.
-/

namespace Sys2Proof.Machine

/-- Settles O6: the sum is taken in the natural numbers, and the slot keeps it modulo 64. -/
theorem hashIsWeightedSum : Obligations.HashIsWeightedSum := by
  unfold Obligations.HashIsWeightedSum
  exact pixelHash_toNat

theorem cacheRead_cacheWrite_ne (c : Cache) {px : Pixel} {k : Slot} (h : k ≠ pixelHash px) :
    cacheRead (cacheWrite c px) k = cacheRead c k := by
  rw [cacheRead_cacheWrite, if_neg h]

/-- Settles O7. -/
theorem cacheWriteStoresAtHash : Obligations.CacheWriteStoresAtHash := by
  unfold Obligations.CacheWriteStoresAtHash
  exact fun c px => ⟨cacheRead_cacheWrite_self c px, fun _ h => cacheRead_cacheWrite_ne c h⟩

/-- The bytes of a word from the most significant down, by division (20_memory.md R54). -/
theorem be32Bytes_eq (w : Word32) :
    be32Bytes w =
      [BitVec.ofNat 8 (w.toNat / 2 ^ 24), BitVec.ofNat 8 (w.toNat / 2 ^ 16), BitVec.ofNat 8 (w.toNat / 2 ^ 8),
       BitVec.ofNat 8 w.toNat] := by
  simp only [be32Bytes, BitVec.extractLsb', Nat.shiftRight_eq_div_pow, pow_zero, Nat.div_one]

/-- Settles O8: the magic, two words byte by byte, and the two single bytes. -/
theorem headerPackBytes : Obligations.HeaderPackBytes := by
  unfold Obligations.HeaderPackBytes
  intro w h c cs
  rw [headerPack, be32Bytes_eq, be32Bytes_eq]
  rfl

end Sys2Proof.Machine
end

section
/-!
The encoder's selection as a plan (41_encoder.md R121 to R139): the pixel it reads, the bytes it emits for it, and which opcode
that is.
-/

namespace Sys2Proof.Machine

/-! ## The pixel fetched (R121) -/

/-- Settles O28: the address of pixel `i` is `4*i` or `3*i` bytes into ENC_IN. -/
theorem fetchPixelReadsBuffer : Obligations.FetchPixelReadsBuffer := by
  unfold Obligations.FetchPixelReadsBuffer
  intro s b i hin
  constructor
  · intro hc
    simp [fetchPixel, encPixelAddr, hin, bufBase, pixelSize, hc]
  · intro hc
    simp [fetchPixel, encPixelAddr, hin, bufBase, pixelSize, hc]

/-! ## How much a pixel emits (R138) -/

/-- The bytes of a pixel that differs from PREV: the pending RUN's and the selected opcode's. -/
theorem planPixel_differ_bytes {e : Enc} {px : Pixel} (h : px ≠ e.prev) (last : Bool) :
    (planPixel e px last).opcodes.flatMap encode = flushBytes e ++ encode (selectOpcode e.cache e.prev px).1 := by
  rw [planPixel_differ h, List.flatMap_append, pendingRun_bytes, List.flatMap_singleton]

/-- Settles O39: a run emits nothing or its one byte; any other pixel at most the one byte of a pending RUN and an opcode of
one to five bytes. -/
theorem pixelStepEmitsAtMostSixBytes : Obligations.PixelStepEmitsAtMostSixBytes := by
  unfold Obligations.PixelStepEmitsAtMostSixBytes
  intro e px last
  by_cases hpx : px = e.prev
  · rw [planPixel_run hpx]
    by_cases hend : e.run.toNat + 1 = 62 ∨ last = true
    · rw [planRun_emit hend, List.flatMap_singleton, encode_length, instrLength]
      exact ⟨by decide, nofun, fun ⟨_, hcap, hlast⟩ => absurd hend (by simp [hcap, hlast])⟩
    · rw [planRun_extend hend, List.flatMap_nil, List.length_nil]
      exact ⟨by decide, fun _ => ⟨hpx, by simpa using hend⟩, fun _ => rfl⟩
  · have hflush := flushBytes_length e
    have hpos := instrLength_pos (selectOpcode e.cache e.prev px).1
    have hlen := instrLength_cases (selectOpcode e.cache e.prev px).1
    rw [planPixel_differ_bytes hpx, List.length_append, encode_length]
    exact ⟨by omega, fun h => by omega, fun h => absurd h.1 hpx⟩

/-! ## Where an RGBA comes from (R139) -/

theorem differOpcode_ne_rgba {prev px : Pixel} (ha : px.a = prev.a) (r g b a : Byte) :
    differOpcode prev px ≠ .rgba r g b a := by
  by_cases hd : fitsDiff (delta px.r prev.r) (delta px.g prev.g) (delta px.b prev.b) = true
  · rw [differOpcode_diff ha hd]
    nofun
  · by_cases hl : fitsLuma (delta px.r prev.r) (delta px.g prev.g) (delta px.b prev.b) = true
    · rw [differOpcode_luma ha hd hl]
      nofun
    · rw [differOpcode_rgb ha hd hl]
      nofun

theorem selectOpcode_ne_rgba {prev px : Pixel} (ha : px.a = prev.a) (c : Cache) (r g b a : Byte) :
    (selectOpcode c prev px).1 ≠ .rgba r g b a := by
  by_cases h : cacheRead c (pixelHash px) = px
  · rw [selectOpcode_hit h]
    nofun
  · rw [selectOpcode_miss h]
    exact differOpcode_ne_rgba ha r g b a

theorem pendingRun_ne_rgba (e : Enc) (r g b a : Byte) : ∀ i ∈ pendingRun e, i ≠ .rgba r g b a := by
  intro i hi
  unfold pendingRun at hi
  split at hi
  · obtain rfl := List.mem_singleton.1 hi
    nofun
  · cases hi

theorem planRun_ne_rgba (e : Enc) (last : Bool) (r g b a : Byte) : ∀ i ∈ (planRun e last).opcodes, i ≠ .rgba r g b a := by
  intro i hi
  by_cases hend : e.run.toNat + 1 = 62 ∨ last = true
  · rw [planRun_emit hend] at hi
    obtain rfl := List.mem_singleton.1 hi
    nofun
  · rw [planRun_extend hend] at hi
    cases hi

/-- A selection with a new alpha is INDEX on a hit and RGBA on a miss (R127, R129). -/
theorem selectOpcode_alpha {prev px : Pixel} (ha : px.a ≠ prev.a) (c : Cache) :
    (selectOpcode c prev px).1 =
      if cacheRead c (pixelHash px) = px then .index (pixelHash px) else .rgba px.r px.g px.b px.a := by
  by_cases h : cacheRead c (pixelHash px) = px
  · rw [selectOpcode_hit h, if_pos h]
  · rw [selectOpcode_miss h, if_neg h]
    exact differOpcode_rgba ha

/-- Settles O41: a new alpha makes the pixel differ from PREV; with the old one no branch of the selection is RGBA. -/
theorem alphaChangeIsIndexOrRgba : Obligations.AlphaChangeIsIndexOrRgba := by
  unfold Obligations.AlphaChangeIsIndexOrRgba
  refine fun e px last => ⟨fun ha => ?_, fun ha i hi r g b a => ?_⟩
  · have hpx : px ≠ e.prev := fun h => ha (congrArg Pixel.a h)
    rw [planPixel_differ hpx, selectOpcode_alpha ha]
  · by_cases hpx : px = e.prev
    · rw [planPixel_run hpx] at hi
      exact planRun_ne_rgba e last r g b a i hi
    · rw [planPixel_differ hpx] at hi
      rcases List.mem_append.1 hi with hrun | hsel
      · exact pendingRun_ne_rgba e r g b a i hrun
      · obtain rfl := List.mem_singleton.1 hsel
        exact selectOpcode_ne_rgba ha e.cache r g b a

end Sys2Proof.Machine
end

section
/-!
What one step of ENC emits and leaves behind (41_encoder.md R122 to R136). The one idea: whatever a pixel step plans, it is one
`emit` of the plan's bytes and four registers written; so `pixelCoded_of_plan` says once what every plan leaves behind, and
each branch of the selection owes only its plan and the plan's bytes.
-/

namespace Sys2Proof.Machine

variable {s : State} {out : Buffer}

/-! ## The pixel step -/

/-- A busy ENC with its buffers set and a pixel left codes that pixel (R122). -/
theorem encAct_applyPlan (hb : s.enc.phase = .busy) (hin : s.enc.inBuf ≠ none) (hout : s.enc.outBuf ≠ none)
    (hp : s.enc.pos.toNat < s.enc.n.toNat) :
    encAct s = .next (applyPlan s (encPixel s) (planPixel s.enc (encPixel s) (encLast s))) := by
  rw [encAct_pixel hb hp, encStep, if_neg hin, if_neg hout]

theorem encLast_iff : encLast s = true ↔ s.enc.pos.toNat + 1 = s.enc.n.toNat := by
  simp [encLast]

theorem planPixel_bytes_le (e : Enc) (px : Pixel) (last : Bool) :
    ((planPixel e px last).opcodes.flatMap encode).length ≤ 6 :=
  (pixelStepEmitsAtMostSixBytes e px last).1

/-- The run counter that a plan leaves fits its six bits (10_state.md R24). -/
theorem planPixel_run_le {e : Enc} (h : e.run.toNat ≤ 61) (px : Pixel) (last : Bool) : (planPixel e px last).run ≤ 61 := by
  rcases planPixel_cases e px last with ⟨hrun, _, hcap, _⟩ | ⟨hrun, _⟩ <;> omega

/-- A plan's bytes go to offset ENC_OUT_LEN of ENC_OUT (00_scope.md R10). -/
theorem applyPlan_writes (s : State) (px : Pixel) (p : Plan) :
    (applyPlan s px p).mem =
      writeBytes s.mem (bufBase s.enc.outBuf + s.enc.outLen.toNat) (p.opcodes.flatMap encode) := rfl

/-- What a pixel step leaves behind, whichever plan it takes. -/
theorem PixelReady.coded (ready : PixelReady s out) {p : Plan}
    (hp : planPixel s.enc (encPixel s) (encLast s) = p) :
    PixelCoded s (applyPlan s (encPixel s) p) out (encPixel s) (p.opcodes.flatMap encode) p.run := by
  subst hp
  have hlen := planPixel_bytes_le s.enc (encPixel s) (encLast s)
  have hrun := planPixel_run_le ready.run (encPixel s) (encLast s)
  have hroom := ready.room
  have hleft : s.enc.pos.toNat + 1 ≤ s.enc.n.toNat := ready.left
  have hpos : (counter s.cfg (s.enc.pos.toNat + 1)).toNat = s.enc.pos.toNat + 1 :=
    counter_toNat_of_lt (hleft.trans_lt ready.countWidth) (hleft.trans_lt s.enc.n.isLt)
  generalize planPixel s.enc (encPixel s) (encLast s) = p at hlen hrun ⊢
  have hmem := applyPlan_writes s (encPixel s) p
  rw [ready.out, show bufBase (some out) = out.base from rfl] at hmem
  exact
    { emitted := hmem ▸ readBytes_writeBytes _ _ _
      memory := fun b hb => hmem ▸ readByte_writeBytes_outside _ _ _ b hb
      outLen := toNat_ofNat64 (by omega)
      prev := rfl
      run := (BitVec.toNat_ofNat p.run 6).trans (Nat.mod_eq_of_lt (by omega))
      pos := hpos
      otherRegs := rfl
      rest := rfl }

/-- A pixel step whose plan is known, in the form of the statements. -/
theorem pixelCoded_of_plan (hb : s.enc.phase = .busy) (ready : PixelReady s out) {is : List Instr} {r : Nat} {c : Cache}
    (hp : planPixel s.enc (encPixel s) (encLast s) = ⟨is, r, c⟩) :
    ∃ t, encAct s = .next t ∧ PixelCoded s t out (encPixel s) (is.flatMap encode) r ∧ t.enc.cache = c :=
  ⟨_, hp ▸ encAct_applyPlan hb ready.inSet (ready.out ▸ nofun) ready.left, ready.coded hp, rfl⟩

/-! ## A pixel equal to PREV (R123 to R125) -/

/-- Settles O30: the plan is to extend the run. -/
theorem runPixelEmitsNothing : Obligations.RunPixelEmitsNothing := by
  unfold Obligations.RunPixelEmitsNothing
  intro s out hb ready hpx hcap hlast
  have hgoes : ¬ (s.enc.run.toNat + 1 = 62 ∨ encLast s = true) := by
    rw [encLast_iff]
    exact not_or.2 ⟨hcap, hlast⟩
  exact pixelCoded_of_plan hb ready ((planPixel_run hpx _).trans (planRun_extend hgoes))

/-- Settles O31: the plan is to end the run with this pixel in it. -/
theorem runEmittedAtCapOrEnd : Obligations.RunEmittedAtCapOrEnd := by
  unfold Obligations.RunEmittedAtCapOrEnd
  intro s out hb ready hpx hend
  rw [← encLast_iff] at hend
  have hbytes : [Instr.run (s.enc.run.toNat + 1)].flatMap encode = [runByte (s.enc.run.toNat + 1)] :=
    (List.flatMap_singleton _ _).trans (encode_run (Nat.succ_pos _))
  rw [← hbytes]
  exact pixelCoded_of_plan hb ready ((planPixel_run hpx _).trans (planRun_emit hend))

/-! ## A pixel that differs from PREV (R126 to R133) -/

/-- Such a pixel is coded by the selected opcode after the pending RUN, and leaves the run counter at 0 (R126). -/
theorem pixelCoded_of_select (hb : s.enc.phase = .busy) (ready : PixelReady s out) (hpx : encPixel s ≠ s.enc.prev) :
    ∃ t, encAct s = .next t ∧
      PixelCoded s t out (encPixel s)
        (flushBytes s.enc ++ encode (selectOpcode s.enc.cache s.enc.prev (encPixel s)).1) 0 ∧
      t.enc.cache = (selectOpcode s.enc.cache s.enc.prev (encPixel s)).2 := by
  rw [← planPixel_differ_bytes hpx (encLast s), planPixel_differ hpx]
  exact pixelCoded_of_plan hb ready (planPixel_differ hpx _)

theorem encode_index (k : Slot) : encode (.index k) = [k.setWidth 8] := by
  have hk := k.isLt
  rw [encode, byteOfInt_eq]
  rw [BitVec.toNat_setWidth]
  omega

/-- Settles O32: the selection is the slot's number and the cache as it was. -/
theorem indexEmittedOnHit : Obligations.IndexEmittedOnHit := by
  unfold Obligations.IndexEmittedOnHit
  intro s out hb ready hpx hhit
  have coded := pixelCoded_of_select hb ready hpx
  rw [selectOpcode_hit hhit, encode_index] at coded
  exact coded

/-- A missed pixel is stored in its slot, in no other, and coded by its difference from PREV (R128). -/
theorem pixelCoded_of_miss (hb : s.enc.phase = .busy) (ready : PixelReady s out) (hpx : encPixel s ≠ s.enc.prev)
    (hmiss : cacheRead s.enc.cache (pixelHash (encPixel s)) ≠ encPixel s) :
    ∃ t, encAct s = .next t ∧
      PixelCoded s t out (encPixel s) (flushBytes s.enc ++ encode (differOpcode s.enc.prev (encPixel s))) 0 ∧
      CacheStored s.enc.cache t.enc.cache (encPixel s) := by
  obtain ⟨t, ht, coded, hcache⟩ := pixelCoded_of_select hb ready hpx
  rw [selectOpcode_miss hmiss] at coded hcache
  exact ⟨t, ht, coded, hcache ▸ cacheWriteStoresAtHash _ _⟩

/-- Settles O33: a new alpha makes the pixel differ from PREV, and its difference is coded as RGBA. -/
theorem rgbaEmittedOnAlphaChange : Obligations.RgbaEmittedOnAlphaChange := by
  unfold Obligations.RgbaEmittedOnAlphaChange
  intro s out hb ready hmiss ha
  have coded := pixelCoded_of_miss hb ready (fun h => ha (congrArg Pixel.a h)) hmiss
  rw [differOpcode_rgba ha] at coded
  exact coded

/-- Settles O34: the byte is the number of R131, which the three ranges keep within a byte. -/
theorem diffEmittedOnSmallDeltas : Obligations.DiffEmittedOnSmallDeltas := by
  unfold Obligations.DiffEmittedOnSmallDeltas
  intro s out hb ready coding hdiff
  obtain ⟨t, ht, coded, stored⟩ := pixelCoded_of_miss hb ready coding.notRun coding.miss
  rw [differOpcode_diff coding.alpha ((fitsDiff_iff _ _).2 hdiff)] at coded
  obtain ⟨hr, hg, hblue⟩ := hdiff
  exact ⟨t, _, ht, byteOfInt_toNat_of_fits (by omega) (by omega), coded, stored⟩

/-- Settles O35: likewise the two numbers of R132. -/
theorem lumaEmittedOnLumaDeltas : Obligations.LumaEmittedOnLumaDeltas := by
  unfold Obligations.LumaEmittedOnLumaDeltas
  intro s out hb ready coding hdiff hluma
  obtain ⟨t, ht, coded, stored⟩ := pixelCoded_of_miss hb ready coding.notRun coding.miss
  rw [differOpcode_luma coding.alpha (mt (fitsDiff_iff _ _).1 hdiff) ((fitsLuma_iff _ _).2 hluma)] at coded
  obtain ⟨hg, hr, hblue⟩ := hluma
  exact ⟨t, _, _, ht, byteOfInt_toNat_of_fits (by omega) (by omega), byteOfInt_toNat_of_fits (by omega) (by omega), coded,
    stored⟩

/-- Settles O36: neither test of the deltas holds, so the difference is coded as RGB. -/
theorem rgbEmittedOtherwise : Obligations.RgbEmittedOtherwise := by
  unfold Obligations.RgbEmittedOtherwise
  intro s out hb ready coding hdiff hluma
  have coded := pixelCoded_of_miss hb ready coding.notRun coding.miss
  rw [differOpcode_rgb coding.alpha (mt (fitsDiff_iff _ _).1 hdiff) (mt (fitsLuma_iff _ _).1 hluma)] at coded
  exact coded

/-! ## The finish step (R136) -/

/-- The bytes of the finish step: the pending RUN and the end marker. -/
def finishBytes (e : Enc) : List Byte := flushBytes e ++ endMarker

/-- The state after the finish step. -/
def encFinished (s : State) : State :=
  let t := emit s (finishBytes s.enc)
  { t with enc := { t.enc with run := 0, phase := .done } }

theorem finishBytes_length_le (e : Enc) : (finishBytes e).length ≤ 9 := by
  have := flushBytes_length e
  rw [finishBytes, List.length_append, show endMarker.length = 8 from rfl]
  omega

/-- A busy ENC that has coded all its pixels finishes the job; the two pieces of its output are emitted as one. -/
theorem encAct_encFinished (hb : s.enc.phase = .busy) (hp : s.enc.n.toNat ≤ s.enc.pos.toNat) (hout : s.enc.outBuf ≠ none)
    (hroom : s.enc.outLen.toNat + (flushBytes s.enc).length < 2 ^ 64) : encAct s = .next (encFinished s) := by
  rw [encAct_finish hb hp.not_gt, encFinish, if_neg hout, encFinished, finishBytes, emit_append _ _ _ hroom,
    ← pendingRun_bytes]
  rfl

theorem encFinished_mem (s : State) :
    (encFinished s).mem = writeBytes s.mem (bufBase s.enc.outBuf + s.enc.outLen.toNat) (finishBytes s.enc) := rfl

theorem encFinished_outLen (hroom : s.enc.outLen.toNat + 9 < 2 ^ 64) :
    (encFinished s).enc.outLen.toNat = s.enc.outLen.toNat + (finishBytes s.enc).length := by
  have hlen := finishBytes_length_le s.enc
  exact toNat_ofNat64 (by omega)

/-- Settles O37: the two pieces that the finish step emits stand in ENC_OUT as one. -/
theorem encodeFinishAppendsMarker : Obligations.EncodeFinishAppendsMarker := by
  unfold Obligations.EncodeFinishAppendsMarker
  intro s out hb hp hout _ hroom
  have hmem := encFinished_mem s
  rw [hout, show bufBase (some out) = out.base from rfl] at hmem
  have hflush := flushBytes_length s.enc
  refine ⟨encFinished s, finishBytes s.enc, encAct_encFinished hb (hp ▸ le_refl _) (hout ▸ nofun) (by omega), rfl, ?_, ?_,
    encFinished_outLen hroom, rfl, rfl⟩
  · rw [hmem]
    exact readBytes_writeBytes _ _ _
  · intro b hb
    rw [hmem]
    exact readByte_writeBytes_outside _ _ _ b hb

end Sys2Proof.Machine
end

section
/-!
START of an encode job (41_encoder.md R120, 60_exceptions.md R211), and the shortest job there is, an image of no pixels
(R137).
-/

namespace Sys2Proof.Machine

variable {s : State}

theorem storeReg_encCtrl_set (s : State) {v : Word64} (h : v.getLsbD 0 = true) : storeReg s .encCtrl v = encStart s := by
  rw [storeReg, if_pos h]

/-- A write of START to an ENC that may be started is EncStart (10_state.md R34). -/
theorem writeReg_encCtrl_start (may : EncMayStart s) {v : Word64} (hv : v.getLsbD 0 = true) :
    writeReg s .encCtrl v = encStart s :=
  (writeReg_enc may.notBusy rfl v).trans (storeReg_encCtrl_set s hv)

/-- An admitted configuration passes every check of EncStart. -/
theorem encStart_admitted (may : EncMayStart s) (h : EncAdmitted s) : encStart s = .next (encLaunch s) := by
  have hapart : ¬ (decBusy s && enginesOverlap s) = true := by
    simpa [decBusy] using may.enginesApart
  have hlegal : ¬ (!encConfigLegal s.enc) = true := by
    simpa using (encConfigLegal_iff s.enc).2 ⟨h.channels, h.colorspace⟩
  have hin : ¬ bufSize s.enc.inBuf ≠ encJobPixels s.enc * s.enc.channels.toNat := not_not.2 h.inSize
  have hout : ¬ bufSize s.enc.outBuf < encCapacity (encJobPixels s.enc) := h.outSize.not_gt
  have hmax : ¬ encJobPixels s.enc > s.cfg.maxPixels := h.limit.not_gt
  rw [encStart, if_neg hapart, if_neg hlegal, if_neg hin, if_neg hout, if_neg hmax]

/-- EncStart launches the job of an admitted configuration and refuses any other; it never faults. -/
theorem encStart_refused (h : ¬ EncAdmitted s) : ∃ r, encStart s = .refused r := by
  cases hs : encStart s with
  | next t => exact absurd (encStart_cases hs).2.1 h
  | fault r =>
    unfold encStart at hs
    split_ifs at hs
  | refused r => exact ⟨r, rfl⟩

/-- The header is the first thing in ENC_OUT (R120). -/
theorem encLaunch_mem (s : State) :
    (encLaunch s).mem = writeBytes s.mem (bufBase s.enc.outBuf)
      (headerPack s.enc.width s.enc.height s.enc.channels s.enc.colorspace) := by
  rw [encLaunch]
  simp

/-- An admitted job has an output buffer, since even an empty image needs 22 bytes (20_memory.md R63). -/
theorem EncAdmitted.outBuf_some (h : EncAdmitted s) : ∃ out, s.enc.outBuf = some out := by
  cases ho : s.enc.outBuf with
  | some out => exact ⟨out, rfl⟩
  | none =>
    have hsize := h.outSize
    rw [ho] at hsize
    exact absurd hsize (by simp [bufSize])

/-- Settles O29. -/
theorem encStartFollowsConfiguration : Obligations.EncStartFollowsConfiguration := by
  unfold Obligations.EncStartFollowsConfiguration
  intro s v hv may
  rw [writeReg_encCtrl_start may hv]
  refine ⟨fun admitted => ?_, encStart_refused⟩
  obtain ⟨out, hout⟩ := admitted.outBuf_some
  have hmem := encLaunch_mem s
  rw [hout, show bufBase (some out) = out.base from rfl] at hmem
  refine ⟨encLaunch s, out, encStart_admitted may admitted, hout, ?_, ?_, rfl, ?_, rfl⟩
  · rw [hmem]
    exact readBytes_writeBytes (headerPack s.enc.width s.enc.height s.enc.channels s.enc.colorspace) _ _
  · intro b hb
    rw [hmem]
    exact readByte_writeBytes_outside _ _ _ b hb
  · exact fun hn => counter_toNat_of_lt hn (pixels_lt _ _)

/-- Settles O38: no pixel is left after START and no run is pending, so the finish step appends the end marker to the
header. -/
theorem zeroPixelImageIs22Bytes : Obligations.ZeroPixelImageIs22Bytes := by
  unfold Obligations.ZeroPixelImageIs22Bytes
  intro s v hv may admitted hzero
  obtain ⟨out, hout⟩ := admitted.outBuf_some
  have hn : (encLaunch s).enc.n.toNat = 0 := by
    rw [encLaunch_enc_n, pixelCount, hzero, counter_toNat, Nat.zero_mod]
  have hfinish : encAct (encLaunch s) = .next (encFinished (encLaunch s)) :=
    encAct_encFinished rfl hn.le (hout ▸ nofun) (show 14 + 0 < 2 ^ 64 by decide)
  have hmem : (encFinished (encLaunch s)).mem = writeBytes s.mem out.base
      (headerPack s.enc.width s.enc.height s.enc.channels s.enc.colorspace ++ endMarker) := by
    rw [writeBytes_append, encFinished_mem, encLaunch_mem, encLaunch_enc_outBuf, hout]
    rfl
  refine ⟨encLaunch s, encFinished (encLaunch s), out, ?_, hfinish, hout, rfl, rfl, ?_⟩
  · rw [writeReg_encCtrl_start may hv]
    exact encStart_admitted may admitted
  · rw [hmem]
    exact readBytes_writeBytes (headerPack s.enc.width s.enc.height s.enc.channels s.enc.colorspace ++ endMarker) _ _

end Sys2Proof.Machine
end

section
/-!
ENC reads nothing but its pixels (41_encoder.md R140, 20_memory.md R50): a pixel that is left lies inside ENC_IN, and the rest
of a step is computed from ENC's registers.
-/

namespace Sys2Proof.Machine

variable {s s' t : State}

/-- Byte `j` of pixel `i` of an image of `n` pixels is one of the bytes of ENC_IN. -/
theorem covers_encPixel {e : Enc} {n i j : Nat} (hc : e.channels = 3 ∨ e.channels = 4)
    (hsize : bufSize e.inBuf = n * e.channels.toNat) (hi : i < n) (hj : j < e.channels.toNat) :
    covers e.inBuf (encPixelAddr e i + j) = true := by
  have hend : (i + 1) * e.channels.toNat ≤ n * e.channels.toNat := Nat.mul_le_mul_right _ hi
  rw [Nat.add_mul, Nat.one_mul] at hend
  rw [covers_true, encPixelAddr, pixelSize_eq hc]
  omega

/-- A pixel is the same wherever its bytes are. -/
theorem fetchPixel_congr {i : Nat} (hc : s.enc.channels = 3 ∨ s.enc.channels = 4) (hin : s'.enc.inBuf = s.enc.inBuf)
    (hchannels : s'.enc.channels = s.enc.channels)
    (hbytes : ∀ j, j < s.enc.channels.toNat →
      readByte s'.mem (encPixelAddr s.enc i + j) = readByte s.mem (encPixelAddr s.enc i + j)) :
    fetchPixel s' i = fetchPixel s i := by
  have haddr : encPixelAddr s'.enc i = encPixelAddr s.enc i := by
    rw [encPixelAddr, encPixelAddr, hin, hchannels]
  have hthree : 3 ≤ s.enc.channels.toNat := by
    rcases hc with hc | hc <;> simp [hc]
  have hr : readByte s'.mem (encPixelAddr s.enc i) = readByte s.mem (encPixelAddr s.enc i) := hbytes 0 (by omega)
  have hg := hbytes 1 (by omega)
  have hb := hbytes 2 (by omega)
  have ha : (if s.enc.channels = 4 then readByte s'.mem (encPixelAddr s.enc i + 3) else 255) =
      if s.enc.channels = 4 then readByte s.mem (encPixelAddr s.enc i + 3) else 255 := by
    split
    · next hfour => exact hbytes 3 (by simp [hfour])
    · rfl
  simp only [fetchPixel, haddr, hchannels, hr, hg, hb, ha]

/-- The two states hold the same bytes in ENC_IN. -/
def SameImage (s s' : State) : Prop := ∀ a, covers s.enc.inBuf a = true → readByte s'.mem a = readByte s.mem a

/-- A pixel inside ENC_IN is fetched alike where ENC_IN holds the same bytes. -/
theorem SameImage.fetchPixel_eq (h : SameImage s s') {n i : Nat} (hc : s.enc.channels = 3 ∨ s.enc.channels = 4)
    (hsize : bufSize s.enc.inBuf = n * s.enc.channels.toNat) (hin : s'.enc.inBuf = s.enc.inBuf)
    (hchannels : s'.enc.channels = s.enc.channels) (hi : i < n) : fetchPixel s' i = fetchPixel s i :=
  fetchPixel_congr hc hin hchannels fun _ hj => h _ (covers_encPixel hc hsize hi hj)

/-- In a job within its bounds the last pixel flushed the run (R125). -/
theorem flushBytes_of_done (job : EncJobOk s.cfg s.enc) (hp : s.enc.n.toNat ≤ s.enc.pos.toNat) : flushBytes s.enc = [] := by
  rw [← pendingRun_bytes, pendingRun_eq_nil job hp, List.flatMap_nil]

/-- The finish step of a job within its bounds. -/
theorem encAct_of_done (job : EncJobOk s.cfg s.enc) (hb : s.enc.phase = .busy) (hp : s.enc.n.toNat ≤ s.enc.pos.toNat)
    (hout : s.enc.outBuf ≠ none) : encAct s = .next (encFinished s) := by
  apply encAct_encFinished hb hp hout
  rw [flushBytes_of_done job hp]
  exact s.enc.outLen.isLt

/-- Settles O42: the pixel step emits its plan's bytes, the finish step the end marker. -/
theorem encodeStepReadsOnlyItsPixels : Obligations.EncodeStepReadsOnlyItsPixels := by
  unfold Obligations.EncodeStepReadsOnlyItsPixels
  intro s s' t hinv hb henc hwidth himage ht
  have job := hinv.enc hb
  have hb' : s'.enc.phase = .busy := henc ▸ hb
  rcases encAct_cases ht with ⟨hnb, _⟩ | ⟨_, hp, hin, hout, rfl⟩ | ⟨_, hp, hout, _⟩
  · exact absurd hb hnb
  · have hpixel : encPixel s' = encPixel s := by
      rw [encPixel, encPixel, henc]
      exact SameImage.fetchPixel_eq himage job.channels job.inSize (by rw [henc]) (by rw [henc]) hp
    have hplan : planPixel s'.enc (encPixel s') (encLast s') = planPixel s.enc (encPixel s) (encLast s) := by
      rw [hpixel, encLast, encLast, henc]
    refine ⟨_, _, encAct_applyPlan hb' (henc ▸ hin) (henc ▸ hout) (henc ▸ hp), ?_, rfl, ?_⟩
    · rw [hplan, hpixel]
      simp only [applyPlan, emitOpcodes, emit, henc, counter, hwidth]
    · rw [hplan, hpixel, applyPlan_mem, emitOpcodes, emit_mem, henc]
  · have hfinish := encAct_of_done job hb hp hout
    have hfinish' : encAct s' = .next (encFinished s') := encAct_encFinished hb' (henc ▸ hp) (henc ▸ hout) (by
      rw [henc, flushBytes_of_done job hp]
      exact s.enc.outLen.isLt)
    obtain rfl : encFinished s = t := by simpa [hfinish] using ht
    refine ⟨encFinished s', finishBytes s.enc, hfinish', ?_, encFinished_mem s, ?_⟩
    · simp only [encFinished, emit, henc]
    · rw [encFinished_mem, henc]

end Sys2Proof.Machine
end

section
/-!
Who moves where no turn is listed (log entry 2): DEC while it is BUSY, then ENC while it is BUSY, then the host.
-/

namespace Sys2Proof.Machine

variable {s : State}

theorem popTurn_of_nil (h : s.turns = []) : popTurn s = s := by
  rw [popTurn, h, List.tail_nil, ← h]

theorem step_eq_decAct (hturns : s.turns = []) (hdec : s.dec.phase = .busy) : step s = decAct s := by
  have hnext : nextAgent s = some .dec := by simp [nextAgent, hturns, decBusy, hdec]
  rw [step, hnext, popTurn_of_nil hturns, agentAct]

theorem step_eq_encAct (hturns : s.turns = []) (hdec : s.dec.phase ≠ .busy) (henc : s.enc.phase = .busy) :
    step s = encAct s := by
  have hnext : nextAgent s = some .enc := by simp [nextAgent, hturns, decBusy, hdec, encBusy, henc]
  rw [step, hnext, popTurn_of_nil hturns, agentAct]

theorem step_eq_hostDo {a : HostAction} {rest : List HostAction} (hturns : s.turns = []) (hdec : s.dec.phase ≠ .busy)
    (henc : s.enc.phase ≠ .busy) (hhost : s.host = a :: rest) : step s = hostDo a { s with host := rest } := by
  have hnext : nextAgent s = some .host := by simp [nextAgent, hturns, decBusy, hdec, encBusy, henc, hhost]
  rw [step, hnext, popTurn_of_nil hturns, agentAct, hostAct, hhost]

end Sys2Proof.Machine
end

section
/-!
What the opcodes of an image say (41_encoder.md R122 to R135). `Codes` is the encoder's selection without the machine around
it: the opcodes that stand for a list of pixels, given the encoder's cache, PREV and the pixels of its pending run. The encoder
is shown to emit opcodes that code its image; the decoder is then shown to read such opcodes back by induction on `Codes`.
-/

namespace Sys2Proof.Machine

/-- The opcodes `is` code `r` pixels equal to `prev` and then the pixels `pxs`, from the cache `c` on: a pixel equal to `prev`
joins the run (R123), a run of up to 62 is written down (R124 to R126), any other pixel is selected an opcode and is in the
cache from then on (R127, R128). -/
inductive Codes : Cache → Pixel → Nat → List Pixel → List Instr → Prop
  | nil {c : Cache} {prev : Pixel} : Codes c prev 0 [] []
  | extend {c : Cache} {prev : Pixel} {r : Nat} {pxs : List Pixel} {is : List Instr} (h : Codes c prev (r + 1) pxs is) :
      Codes c prev r (prev :: pxs) is
  | flush {c : Cache} {prev : Pixel} {r : Nat} {pxs : List Pixel} {is : List Instr} (hpos : 1 ≤ r) (hcap : r ≤ 62)
      (h : Codes c prev 0 pxs is) : Codes c prev r pxs (.run r :: is)
  | select {c : Cache} {prev px : Pixel} {pxs : List Pixel} {is : List Instr} (h : Codes (cacheWrite c px) px 0 pxs is) :
      Codes c prev 0 (px :: pxs) ((selectOpcode c prev px).1 :: is)

/-- The pending RUN of the encoder, if there is one, and then the opcodes of the pixels after it. -/
theorem Codes.after_pendingRun {e : Enc} {pxs : List Pixel} {is : List Instr} (hrun : e.run.toNat ≤ 61)
    (h : Codes e.cache e.prev 0 pxs is) : Codes e.cache e.prev e.run.toNat pxs (pendingRun e ++ is) := by
  rw [pendingRun]
  split
  · next hpos => exact .flush hpos (by omega) h
  · next hpos =>
    rw [Nat.eq_zero_of_not_pos hpos]
    exact h

/-- The plan of a pixel step codes that pixel, whichever plan it is. -/
theorem Codes.after_planPixel {e : Enc} {px : Pixel} {last : Bool} {pxs : List Pixel} {is : List Instr} (hrun : e.run.toNat ≤ 61)
    (h : Codes (planPixel e px last).cache px (planPixel e px last).run pxs is) :
    Codes e.cache e.prev e.run.toNat (px :: pxs) ((planPixel e px last).opcodes ++ is) := by
  by_cases hpx : px = e.prev
  · rw [planPixel_run hpx] at h ⊢
    by_cases hend : e.run.toNat + 1 = 62 ∨ last = true
    · rw [planRun_emit hend] at h ⊢
      rw [hpx] at h ⊢
      exact .extend (.flush (Nat.succ_pos _) (by omega) h)
    · rw [planRun_extend hend] at h ⊢
      rw [hpx] at h ⊢
      exact .extend h
  · rw [planPixel_differ hpx] at h ⊢
    rw [selectOpcode_cache] at h
    rw [List.append_assoc]
    exact .after_pendingRun hrun (.select h)

end Sys2Proof.Machine
end

section
/-!
An encode job from START to DONE (41_encoder.md R120 to R136): every pixel step emits opcodes that code its pixel, so what
stands in ENC_OUT at the end is the header, opcodes that code the image, and the end marker.
-/

namespace Sys2Proof.Machine

variable {s t u : State}

/-! ## The image -/

/-- The `k` pixels of ENC_IN from pixel `i` on. -/
def pixelsFrom (s : State) (i : Nat) : Nat → List Pixel
  | 0 => []
  | k + 1 => fetchPixel s i :: pixelsFrom s (i + 1) k

@[simp] theorem pixelsFrom_length (s : State) (i k : Nat) : (pixelsFrom s i k).length = k := by
  induction k generalizing i with
  | zero => rfl
  | succ k ih => simp [pixelsFrom, ih]

theorem pixelsFrom_congr {n : Nat} (h : ∀ i, i < n → fetchPixel t i = fetchPixel s i) (i k : Nat) (hk : i + k ≤ n) :
    pixelsFrom t i k = pixelsFrom s i k := by
  induction k generalizing i with
  | zero => rfl
  | succ k ih => rw [pixelsFrom, pixelsFrom, h i (by omega), ih (i + 1) (by omega)]

/-- What is written into ENC_OUT leaves an ENC_IN apart from it alone. -/
theorem sameImage_of_write {bs : List Byte} {o : Nat} (hapart : overlap s.enc.inBuf s.enc.outBuf = false)
    (hfits : o + bs.length ≤ bufSize s.enc.outBuf) (hmem : t.mem = writeBytes s.mem (bufBase s.enc.outBuf + o) bs) :
    SameImage s t := by
  intro a ha
  have hout := covers_false.1 (not_covers_both hapart ha)
  rw [hmem]
  exact readByte_writeBytes_outside _ _ _ _ (by omega)

/-! ## The job under way -/

/-- An encode job runs alone, with ENC_IN apart from ENC_OUT and an output that fits its 64-bit length. -/
structure Encoding (s : State) : Prop where
  turns : s.turns = []
  busy : s.enc.phase = .busy
  alone : s.dec.phase ≠ .busy
  wide : 64 ≤ s.cfg.counterWidth
  job : EncJobOk s.cfg s.enc
  inSet : s.enc.inBuf ≠ none
  outSet : s.enc.outBuf ≠ none
  apart : overlap s.enc.inBuf s.enc.outBuf = false
  room : 22 + 5 * s.enc.n.toNat < 2 ^ 64

/-- ENC has emitted `bs` on the way from `s` to `t`; its output buffer, DEC, the parameters and the turns are as before. -/
structure Emitted (s t : State) (bs : List Byte) : Prop where
  mem : t.mem = writeBytes s.mem (bufBase s.enc.outBuf + s.enc.outLen.toNat) bs
  outLen : t.enc.outLen.toNat = s.enc.outLen.toNat + bs.length
  outBuf : t.enc.outBuf = s.enc.outBuf
  dec : t.dec = s.dec
  cfg : t.cfg = s.cfg
  turns : t.turns = s.turns

theorem emitted_nil (s : State) : Emitted s s [] := ⟨rfl, rfl, rfl, rfl, rfl, rfl⟩

theorem Emitted.trans {bs cs : List Byte} (h : Emitted s t bs) (h' : Emitted t u cs) : Emitted s u (bs ++ cs) where
  mem := by rw [writeBytes_append, h'.mem, h.mem, h.outBuf, h.outLen, Nat.add_assoc]
  outLen := by rw [h'.outLen, h.outLen, List.length_append, Nat.add_assoc]
  outBuf := h'.outBuf.trans h.outBuf
  dec := h'.dec.trans h.dec
  cfg := h'.cfg.trans h.cfg
  turns := h'.turns.trans h.turns

theorem Encoding.pixelReady (h : Encoding s) (hp : s.enc.pos.toNat < s.enc.n.toNat) :
    ∃ out, PixelReady s out := by
  obtain ⟨out, hout⟩ := Option.ne_none_iff_exists'.1 h.outSet
  have hemitted := h.job.emitted
  have hroom := h.room
  exact ⟨out,
    { inSet := h.inSet
      out := hout
      left := hp
      run := h.job.run
      room := by omega
      countWidth := s.enc.n.isLt.trans_le (Nat.pow_le_pow_right (by norm_num) h.wide) }⟩

/-- A plan that keeps the job's bounds keeps the job. -/
theorem Encoding.of_job {px : Pixel} {p : Plan} (h : Encoding s) (hjob : EncJobOk s.cfg (applyPlan s px p).enc) :
    Encoding (applyPlan s px p) :=
  { h with job := hjob }

theorem emitted_applyPlan {px : Pixel} {p : Plan}
    (hlen : (applyPlan s px p).enc.outLen.toNat = s.enc.outLen.toNat + (p.opcodes.flatMap encode).length) :
    Emitted s (applyPlan s px p) (p.opcodes.flatMap encode) :=
  ⟨applyPlan_writes s px p, hlen, rfl, rfl, rfl, rfl⟩

/-- The state after a pixel step. -/
def encStepped (s : State) : State := applyPlan s (encPixel s) (planPixel s.enc (encPixel s) (encLast s))

/-- A pixel step of the job: the plan's bytes are emitted, the job goes on, and ENC_IN is as before. -/
theorem Encoding.pixelStep (h : Encoding s) (hp : s.enc.pos.toNat < s.enc.n.toNat) :
    step s = .next (encStepped s) ∧ Encoding (encStepped s) ∧ SameImage s (encStepped s) ∧
    Emitted s (encStepped s) ((planPixel s.enc (encPixel s) (encLast s)).opcodes.flatMap encode) := by
  obtain ⟨out, ready⟩ := h.pixelReady hp
  have coded := ready.coded rfl
  refine ⟨?_, ?_, ?_, ?_⟩
  · rw [step_eq_encAct h.turns h.alone h.busy, encAct_applyPlan h.busy h.inSet h.outSet hp]
    rfl
  · exact h.of_job (encJobOk_pixel h.wide h.job hp _)
  · exact sameImage_of_write h.apart (planPixel_fits h.job hp _ _) (applyPlan_writes s _ _)
  · exact emitted_applyPlan coded.outLen

/-- The pixels left take one step each, and the bytes emitted are those of opcodes that code them (R122, R135). -/
theorem Encoding.pixels (h : Encoding s) {k : Nat} (hk : s.enc.pos.toNat + k = s.enc.n.toNat) :
    ∃ t is, Reaches k s t ∧ Encoding t ∧ t.enc.n.toNat ≤ t.enc.pos.toNat ∧ Emitted s t (is.flatMap encode) ∧
      Codes s.enc.cache s.enc.prev s.enc.run.toNat (pixelsFrom s s.enc.pos.toNat k) is := by
  induction k generalizing s with
  | zero =>
    refine ⟨s, [], reaches_zero s, h, by omega, emitted_nil s, ?_⟩
    rw [h.job.flushed (by omega)]
    exact .nil
  | succ k ih =>
    have hp : s.enc.pos.toNat < s.enc.n.toNat := by omega
    obtain ⟨out, ready⟩ := h.pixelReady hp
    have coded : PixelCoded s (encStepped s) out _ _ _ := ready.coded rfl
    obtain ⟨hstep, hnext, himage, hemitted⟩ := h.pixelStep hp
    have hleft : (encStepped s).enc.pos.toNat + k = (encStepped s).enc.n.toNat := by
      rw [coded.pos, show (encStepped s).enc.n = s.enc.n from rfl]
      omega
    obtain ⟨t, is, hreach, ht, hdone, hrest, hcodes⟩ := ih hnext hleft
    have hpixels : pixelsFrom (encStepped s) (s.enc.pos.toNat + 1) k = pixelsFrom s (s.enc.pos.toNat + 1) k :=
      pixelsFrom_congr (fun i hi => himage.fetchPixel_eq h.job.channels h.job.inSize rfl rfl hi) _ _ (by omega)
    rw [coded.pos, coded.run, coded.prev, hpixels] at hcodes
    refine ⟨t, _, reaches_succ hstep hreach, ht, hdone, ?_, Codes.after_planPixel h.job.run hcodes⟩
    rw [List.flatMap_append]
    exact hemitted.trans hrest

/-- The finish step of the job emits the end marker (R136). -/
theorem Encoding.finish (h : Encoding s) (hp : s.enc.n.toNat ≤ s.enc.pos.toNat) :
    step s = .next (encFinished s) ∧ Emitted s (encFinished s) endMarker := by
  have hemitted := h.job.emitted
  have hroom := h.room
  have hpos := h.job.pos
  have hbytes : finishBytes s.enc = endMarker := by
    rw [finishBytes, flushBytes_of_done h.job hp, List.nil_append]
  refine ⟨?_, ?_⟩
  · rw [step_eq_encAct h.turns h.alone h.busy]
    exact encAct_of_done h.job h.busy hp h.outSet
  · rw [← hbytes]
    exact ⟨rfl, encFinished_outLen (by omega), rfl, rfl, rfl, rfl⟩

/-! ## The job from START -/

/-- What the contract asks of an encode job (R141) before START: no turn is listed, DEC is not BUSY, the configuration is
admitted, and ENC_OUT lies apart from ENC_IN and is measured in 64 bits. -/
structure EncodeRequest (s : State) : Prop where
  turns : s.turns = []
  alone : s.dec.phase ≠ .busy
  wide : 64 ≤ s.cfg.counterWidth
  may : EncMayStart s
  admitted : EncAdmitted s
  inSet : s.enc.inBuf ≠ none
  apart : overlap s.enc.inBuf s.enc.outBuf = false
  room : 22 + 5 * (s.enc.width.toNat * s.enc.height.toNat) < 2 ^ 64

theorem EncodeRequest.encoding (h : EncodeRequest s) : Encoding (encLaunch s) where
  turns := h.turns
  busy := rfl
  alone := h.alone
  wide := h.wide
  job := show EncJobOk s.cfg (encLaunch s).enc from encJobOk_encLaunch h.wide h.admitted
  inSet := h.inSet
  outSet := Option.ne_none_iff_exists'.2 h.admitted.outBuf_some
  apart := h.apart
  room := by
    rw [encLaunch_enc_n, pixelCount_toNat h.wide]
    exact h.room

/-- The header leaves the image alone. -/
theorem EncodeRequest.sameImage (h : EncodeRequest s) : SameImage s (encLaunch s) := by
  have hsize := h.admitted.outSize
  refine sameImage_of_write (o := 0) h.apart ?_ (encLaunch_mem s)
  rw [headerPack_length]
  omega

theorem EncodeRequest.pixelsFrom_eq (h : EncodeRequest s) :
    pixelsFrom (encLaunch s) 0 (s.enc.width.toNat * s.enc.height.toNat) =
      pixelsFrom s 0 (s.enc.width.toNat * s.enc.height.toNat) :=
  pixelsFrom_congr (fun _ hi => h.sameImage.fetchPixel_eq h.admitted.channels h.admitted.inSize rfl rfl hi) _ _
    (Nat.zero_add _).le

/-- The stream of an image: the header, the opcodes, the end marker (30_encoding.md R70). -/
def streamOf (hdr : Header) (is : List Instr) : List Byte :=
  headerPack hdr.width hdr.height hdr.channels hdr.colorspace ++ (is.flatMap encode ++ endMarker)

/-- The header of the image that ENC's registers describe. -/
def encHeader (e : Enc) : Header := ⟨e.width, e.height, e.channels, e.colorspace⟩

/-- What an encode job leaves: DONE, in ENC_OUT a stream whose opcodes code the image of ENC_IN, and nothing else that a
decode job looks at. -/
structure Encodes (s t : State) (is : List Instr) : Prop where
  done : t.enc.phase = .done
  mem : t.mem = writeBytes s.mem (bufBase s.enc.outBuf) (streamOf (encHeader s.enc) is)
  outLen : t.enc.outLen.toNat = (streamOf (encHeader s.enc) is).length
  fits : t.enc.outLen.toNat ≤ bufSize s.enc.outBuf
  codes : Codes (cacheInit s.cfg) s.cfg.prevInitPixel 0 (pixelsFrom s 0 (s.enc.width.toNat * s.enc.height.toNat)) is
  dec : t.dec = s.dec
  cfg : t.cfg = s.cfg
  turns : t.turns = []

/-- From the job-start state the job takes one step per pixel and the finish step. -/
theorem EncodeRequest.encodes (h : EncodeRequest s) :
    ∃ t is, Reaches (s.enc.width.toNat * s.enc.height.toNat + 1) (encLaunch s) t ∧ Encodes s t is := by
  have hn : (encLaunch s).enc.pos.toNat + s.enc.width.toNat * s.enc.height.toNat = (encLaunch s).enc.n.toNat := by
    rw [encLaunch_enc_n, pixelCount_toNat h.wide, encLaunch_enc_pos]
    exact Nat.zero_add _
  obtain ⟨t, is, hreach, ht, hdone, hpixels, hcodes⟩ := h.encoding.pixels hn
  obtain ⟨hfinish, hmarker⟩ := ht.finish hdone
  have hemitted := hpixels.trans hmarker
  have hlen := ht.job.emitted
  have hpos := ht.job.pos
  have hsize := ht.job.outSize
  rw [hpixels.outBuf, encLaunch_enc_outBuf] at hsize
  refine ⟨encFinished t, is, reaches_trans hreach (reaches_succ hfinish (reaches_zero _)), ?_⟩
  exact
    { done := rfl
      mem := by
        rw [hemitted.mem, encLaunch_mem, streamOf, writeBytes_append (headerPack _ _ _ _), headerPack_length]
        rfl
      outLen := by
        rw [hemitted.outLen, streamOf, List.length_append (as := headerPack _ _ _ _), headerPack_length]
        rfl
      fits := by
        rw [hmarker.outLen, show endMarker.length = 8 from rfl]
        omega
      codes := h.pixelsFrom_eq ▸ hcodes
      dec := hemitted.dec
      cfg := hemitted.cfg
      turns := hemitted.turns.trans h.turns }

end Sys2Proof.Machine
end

section
/-!
The two caches (40_shared.md R111). A run is written to DEC's cache and not to ENC's, so the caches need not be equal; what the
contract needs is that whatever ENC finds in its cache DEC finds in its own.
-/

namespace Sys2Proof.Machine

/-- Every hit in ENC's cache `c` is a hit in DEC's cache `c'`, and PREV is the only pixel that can be hit in its slot. The
second clause lets DEC store PREV again for every pixel of a run. -/
structure Tracks (c c' : Cache) (prev : Pixel) : Prop where
  hit : ∀ px, cacheRead c (pixelHash px) = px → cacheRead c' (pixelHash px) = px
  settled : ∀ px, pixelHash px = pixelHash prev → cacheRead c (pixelHash px) = px → px = prev

/-- At job start, by the proviso of R111. -/
theorem tracks_init {cfg : Config}
    (h : cfg.cacheInitPixel = cfg.prevInitPixel ∨ pixelHash cfg.cacheInitPixel ≠ pixelHash cfg.prevInitPixel) :
    Tracks (cacheInit cfg) (cacheInit cfg) cfg.prevInitPixel where
  hit := fun _ hpx => hpx
  settled := fun px hslot hpx => by
    obtain rfl : cfg.cacheInitPixel = px := (cacheRead_cacheInit cfg _).symm.trans hpx
    exact h.resolve_right (not_not.2 hslot)

/-- A run stores PREV in DEC's cache (42_decoder.md R165, R169). -/
theorem Tracks.run {c c' : Cache} {prev : Pixel} (h : Tracks c c' prev) : Tracks c (cacheWrite c' prev) prev where
  hit := fun px hpx => by
    rw [cacheRead_cacheWrite]
    split
    · next hslot => exact (h.settled px hslot hpx).symm
    · exact h.hit px hpx
  settled := h.settled

/-- A pixel that is selected an opcode is in both caches afterwards (41_encoder.md R127, R128). -/
theorem Tracks.store {c c' : Cache} {prev : Pixel} (h : Tracks c c' prev) (px : Pixel) :
    Tracks (cacheWrite c px) (cacheWrite c' px) px where
  hit := fun q hq => by
    rw [cacheRead_cacheWrite] at hq ⊢
    split at hq
    · next hslot => rw [if_pos hslot, hq]
    · next hslot => rw [if_neg hslot, h.hit q hq]
  settled := fun q hslot hq => by
    rw [hslot, cacheRead_cacheWrite_self] at hq
    exact hq.symm

end Sys2Proof.Machine
end

section
/-!
Bytes that stand in memory: a stream is read piece by piece.
-/

namespace Sys2Proof.Machine

theorem readBytes_add (m : Memory) (a n k : Nat) : readBytes m a (n + k) = readBytes m a n ++ readBytes m (a + n) k := by
  induction n generalizing a with
  | zero => simp [readBytes]
  | succ n ih => rw [Nat.succ_add, readBytes, readBytes, ih, Nat.succ_add_eq_add_succ, List.cons_append]

/-- The bytes `bs` stand in memory from address `a` on. -/
def Stands (m : Memory) (a : Nat) (bs : List Byte) : Prop := readBytes m a bs.length = bs

theorem stands_append {m : Memory} {a : Nat} {bs cs : List Byte} :
    Stands m a (bs ++ cs) ↔ Stands m a bs ∧ Stands m (a + bs.length) cs := by
  rw [Stands, List.length_append, readBytes_add]
  exact ⟨fun h => List.append_inj h (readBytes_length _ _ _), fun ⟨h, h'⟩ => congrArg₂ (· ++ ·) h h'⟩

theorem stands_writeBytes (m : Memory) (a : Nat) (bs : List Byte) : Stands (writeBytes m a bs) a bs :=
  readBytes_writeBytes bs m a

theorem Stands.congr {m m' : Memory} {a : Nat} {bs : List Byte} (h : Stands m a bs)
    (hm : ∀ i, i < bs.length → readByte m' (a + i) = readByte m (a + i)) : Stands m' a bs :=
  (readBytes_congr _ _ _ _ _ hm).trans h

end Sys2Proof.Machine
end

section
/-!
Reading the stream back (42_decoder.md R161 to R169). By induction on `Codes`: at each opcode DEC stands where the opcode
begins, with the encoder's PREV and a cache that tracks the encoder's, so it writes the pixels that the opcode codes and stands
where the next one begins.
-/

namespace Sys2Proof.Machine

variable {s t u : State} {base : Nat}

/-! ## The opcode that is fetched -/

/-- The bytes fetched are those at the cursor, as far as they lie before BODY_END. -/
theorem fetchWindow_take {k : Nat} (hk : k ≤ 5) (hend : s.dec.cursor.toNat + k ≤ s.dec.bodyEnd.toNat) :
    (fetchWindow s base).take k = readBytes s.mem (base + s.dec.cursor.toNat) k := by
  have hwindow : fetchWindow s base = (List.range 5).map (streamByte s base) := rfl
  apply List.ext_getElem
  · simp [hwindow, hk]
  · intro j _ hj
    rw [readBytes_length] at hj
    rw [readBytes_getElem, List.getElem_take]
    simp only [hwindow, List.getElem_map, List.getElem_range]
    rw [streamByte, if_pos (by omega)]

/-- The fetch finds the opcode whose bytes stand at the cursor before BODY_END. -/
theorem fetchOpcode_of_stands {i : Instr} (hwf : i.wf = true) (hend : s.dec.cursor.toNat + instrLength i ≤ s.dec.bodyEnd.toNat)
    (hstands : Stands s.mem (base + s.dec.cursor.toNat) (encode i)) : fetchOpcode s base = some i := by
  have hlen : instrLength i ≤ 5 := by
    have := instrLength_cases i
    omega
  have htake : (fetchWindow s base).take (instrLength i) = encode i := by
    rw [fetchWindow_take hlen hend, ← encode_length]
    exact hstands
  have hdecode := decodeInvertsEncode i ((fetchWindow s base).drop (instrLength i)) hwf
  rw [← htake, List.take_append_drop] at hdecode
  rw [fetchOpcode, hdecode]

/-! ## What an opcode writes -/

/-- The state after an opcode of `len` bytes that wrote the pixel `px` some `k` times. -/
def opcodeDone (s : State) (px : Pixel) (k len : Nat) : State := advance (setPrev (putPixels s px k) px) len

theorem putPixels_mem (px : Pixel) (k : Nat) (s : State) (h : s.dec.produced.toNat + k < 2 ^ s.cfg.counterWidth)
    (h' : s.dec.produced.toNat + k < 2 ^ 64) :
    (putPixels s px k).mem = writeBytes s.mem (decPixelAddr s.dec s.dec.produced.toNat)
      ((List.replicate k px).flatMap (pixelBytes s.dec.channels)) := by
  induction k generalizing s with
  | zero => rfl
  | succ k ih =>
    have hproduced := putPixel_produced s px (by omega) (by omega)
    have haddr : decPixelAddr s.dec (s.dec.produced.toNat + 1) =
        decPixelAddr s.dec s.dec.produced.toNat + (pixelBytes s.dec.channels px).length := by
      rw [decPixelAddr, decPixelAddr, pixelBytes_length, Nat.add_mul, Nat.one_mul, Nat.add_assoc]
    rw [putPixels, ih _ (by rw [hproduced, putPixel_cfg]; omega) (by omega), putPixel_mem, hproduced, decPixelAddr_putPixel,
      haddr, putPixel_dec_channels, ← writeBytes_append, List.replicate_succ, List.flatMap_cons]

/-- The pixels `pxs` have been written on the way from `s` to `t`, and `len` bytes of the stream have been read; no other
register of DEC is written. -/
structure Decoded (s t : State) (pxs : List Pixel) (len : Nat) : Prop where
  mem : t.mem = writeBytes s.mem (decPixelAddr s.dec s.dec.produced.toNat) (pxs.flatMap (pixelBytes s.dec.channels))
  cursor : t.dec.cursor.toNat = s.dec.cursor.toNat + len
  produced : t.dec.produced.toNat = s.dec.produced.toNat + pxs.length
  regs : t.dec = { s.dec with
    pixels := t.dec.pixels, cache := t.dec.cache, prev := t.dec.prev, cursor := t.dec.cursor, produced := t.dec.produced }

theorem Decoded.n_eq {pxs : List Pixel} {len : Nat} (h : Decoded s t pxs len) : t.dec.n = s.dec.n := by rw [h.regs]

theorem Decoded.bodyEnd_eq {pxs : List Pixel} {len : Nat} (h : Decoded s t pxs len) : t.dec.bodyEnd = s.dec.bodyEnd := by
  rw [h.regs]

theorem decoded_nil (s : State) : Decoded s s [] 0 := ⟨rfl, rfl, rfl, rfl⟩

theorem pixels_length (c : Byte) (pxs : List Pixel) :
    (pxs.flatMap (pixelBytes c)).length = pxs.length * pixelSize c := by
  induction pxs with
  | nil => simp
  | cons px pxs ih =>
    rw [List.flatMap_cons, List.length_append, pixelBytes_length, ih, List.length_cons, Nat.succ_mul, Nat.add_comm]

theorem Decoded.trans {pxs qxs : List Pixel} {len len' : Nat} (h : Decoded s t pxs len) (h' : Decoded t u qxs len') :
    Decoded s u (pxs ++ qxs) (len + len') where
  mem := by
    have hchannels : t.dec.channels = s.dec.channels := by rw [h.regs]
    have haddr : decPixelAddr t.dec t.dec.produced.toNat =
        decPixelAddr s.dec s.dec.produced.toNat + (pxs.flatMap (pixelBytes s.dec.channels)).length := by
      have hout : t.dec.outBuf = s.dec.outBuf := by rw [h.regs]
      rw [decPixelAddr, decPixelAddr, h.produced, hchannels, hout, pixels_length, Nat.add_mul, Nat.add_assoc]
    rw [h'.mem, h.mem, haddr, hchannels, ← writeBytes_append, List.flatMap_append]
  cursor := by rw [h'.cursor, h.cursor, Nat.add_assoc]
  produced := by rw [h'.produced, h.produced, List.length_append, Nat.add_assoc]
  regs := by
    rw [h'.regs, h.regs]

/-! ## The job under way -/

/-- A decode job runs, with DEC_OUT apart from its stream. -/
structure Decoding (base : Nat) (s : State) : Prop where
  turns : s.turns = []
  busy : s.dec.phase = .busy
  wide : 64 ≤ s.cfg.counterWidth
  job : DecJobOk s.cfg s.dec
  inSet : s.dec.inBuf = some base
  outSet : s.dec.outBuf ≠ none
  apart : ∀ a, covers (decInBuffer s.dec) a = true → covers s.dec.outBuf a = false

/-- The pixels written leave the stream alone. -/
theorem Decoding.sameStream (h : Decoding base s) {pxs : List Pixel} {len : Nat} (hd : Decoded s t pxs len)
    (hn : s.dec.produced.toNat + pxs.length ≤ s.dec.n.toNat) : SameStream s t := by
  intro a ha
  have hout := covers_false.1 (h.apart a ha)
  have hsize := h.job.outSize
  have hend : (s.dec.produced.toNat + pxs.length) * s.dec.channels.toNat ≤ s.dec.n.toNat * s.dec.channels.toNat :=
    Nat.mul_le_mul_right _ hn
  rw [hd.mem]
  apply readByte_writeBytes_outside
  rw [pixels_length, decPixelAddr, pixelSize_eq h.job.channels]
  rw [Nat.add_mul] at hend
  omega

/-- An opcode at the cursor that writes missing pixels: the step, what it writes, and the job goes on. -/
theorem Decoding.opcode (h : Decoding base s) {i : Instr} {px : Pixel} {k : Nat} (hwf : i.wf = true)
    (hend : s.dec.cursor.toNat + instrLength i ≤ s.dec.bodyEnd.toNat)
    (hstands : Stands s.mem (base + s.dec.cursor.toNat) (encode i)) (hk : 1 ≤ k)
    (hmissing : s.dec.produced.toNat + k ≤ s.dec.n.toNat)
    (hexec : exec i s = .next (opcodeDone s px k (instrLength i))) :
    step s = .next (opcodeDone s px k (instrLength i)) ∧ Decoding base (opcodeDone s px k (instrLength i)) ∧
      Decoded s (opcodeDone s px k (instrLength i)) (List.replicate k px) (instrLength i) := by
  have hlen := instrLength_pos i
  have hn : s.dec.produced.toNat + k < 2 ^ 64 := hmissing.trans_lt s.dec.n.isLt
  have hn' : s.dec.produced.toNat + k < 2 ^ s.cfg.counterWidth :=
    hn.trans_le (Nat.pow_le_pow_right (by norm_num) h.wide)
  have hfetch := fetchOpcode_of_stands hwf hend hstands
  refine ⟨?_, ?_, ?_⟩
  · rw [step_eq_decAct h.turns h.busy, decAct_opcode h.busy (by omega), decStep, if_neg (by omega)]
    simp only [h.inSet, hfetch, hexec]
  · have hjob := decJobOk_opcode h.wide h.job hend hk hmissing px
    rw [putPixels_frame] at hjob
    rw [opcodeDone, putPixels_frame]
    exact { h with job := hjob }
  · have hmem := putPixels_mem px k s hn' hn
    have hproduced := putPixels_produced px k s hn' hn
    have hcursor : (counter s.cfg (s.dec.cursor.toNat + instrLength i)).toNat = s.dec.cursor.toNat + instrLength i :=
      counter_wide h.wide (hend.trans_lt s.dec.bodyEnd.isLt)
    refine ⟨hmem, ?_, ?_, ?_⟩
    · rw [opcodeDone, putPixels_frame]
      exact hcursor
    · rw [List.length_replicate]
      exact hproduced
    · rw [opcodeDone, putPixels_frame]
      rfl

/-! ## One opcode of the stream -/

/-- DEC stands at the first of the opcodes `is`, which code the pixels still missing. -/
structure Follows (base : Nat) (c : Cache) (prev : Pixel) (r : Nat) (pxs : List Pixel) (is : List Instr) (s : State) :
    Prop where
  running : Decoding base s
  prevIs : s.dec.prev = prev
  tracks : Tracks c s.dec.cache prev
  stream : Stands s.mem (base + s.dec.cursor.toNat) (is.flatMap encode)
  ends : s.dec.cursor.toNat + (is.flatMap encode).length = s.dec.bodyEnd.toNat
  missing : s.dec.produced.toNat + (r + pxs.length) = s.dec.n.toNat

/-- DEC gets from `s` to where the opcodes end, by writing `pxs` and reading `len` bytes. -/
def Decodes (base : Nat) (s : State) (pxs : List Pixel) (len : Nat) : Prop :=
  ∃ k t, Reaches k s t ∧ Decoding base t ∧ Decoded s t pxs len

theorem decodes_nil (h : Decoding base s) : Decodes base s [] 0 := ⟨0, s, reaches_zero s, h, decoded_nil s⟩

theorem Decodes.cons {pxs qxs : List Pixel} {len len' : Nat} (hstep : step s = .next t) (hd : Decoded s t pxs len)
    (h : Decodes base t qxs len') : Decodes base s (pxs ++ qxs) (len + len') := by
  obtain ⟨k, u, hreach, hu, hrest⟩ := h
  exact ⟨k + 1, u, reaches_succ hstep hreach, hu, hd.trans hrest⟩

variable {c c' : Cache} {prev px : Pixel} {r : Nat} {pxs qxs : List Pixel} {is : List Instr}

/-- After its first opcode DEC stands at the second. -/
theorem Follows.opcode {i : Instr} {k : Nat} (h : Follows base c prev r pxs (i :: is) s) (hwf : i.wf = true) (hk : 1 ≤ k)
    (hcount : r + pxs.length = k + qxs.length) (hexec : exec i s = .next (opcodeDone s px k (instrLength i)))
    (htracks : Tracks c' (cacheWrite s.dec.cache px) px) :
    ∃ t, step s = .next t ∧ Decoded s t (List.replicate k px) (instrLength i) ∧ Follows base c' px 0 qxs is t := by
  have hstream := h.stream
  have hends := h.ends
  have hmissing := h.missing
  rw [List.flatMap_cons] at hstream hends
  rw [List.length_append, encode_length] at hends
  obtain ⟨hi, his⟩ := stands_append.1 hstream
  obtain ⟨hstep, hrunning, hdecoded⟩ := h.running.opcode hwf (by omega) hi hk (by omega) hexec
  refine ⟨_, hstep, hdecoded, hrunning, rfl, ?_, ?_, ?_, ?_⟩
  · rw [show (opcodeDone s px k (instrLength i)).dec.cache = (putPixels s px k).dec.cache from rfl, putPixels_cache _ _ _ hk]
    exact htracks
  · have hsame := h.running.sameStream hdecoded (by rw [List.length_replicate]; omega)
    have hbody := h.running.job.bodyEnd_le_inLen
    rw [hdecoded.cursor, ← encode_length, ← Nat.add_assoc]
    refine his.congr fun j hj => ?_
    rw [encode_length, Nat.add_assoc, Nat.add_assoc]
    exact hsame.readByte_eq h.running.inSet (by omega)
  · rw [hdecoded.cursor, hdecoded.bodyEnd_eq]
    omega
  · rw [hdecoded.produced, List.length_replicate, hdecoded.n_eq]
    omega

/-- A RUN that is not longer than the pixels missing writes PREV so often, under either overshoot policy (R165, R171). -/
theorem exec_run (hout : s.dec.outBuf ≠ none) (hr : r ≤ missing s.dec) :
    exec (.run r) s = .next (opcodeDone s s.dec.prev r 1) := by
  obtain ⟨out, hout⟩ := Option.ne_none_iff_exists'.1 hout
  rw [exec, execRun, if_neg (by omega), retireRun_eq hout, min_eq_left hr, opcodeDone]
  unfold advance setPrev
  rw [putPixels_frame]

/-- The opcode that ENC selected yields its pixel from a cache that has ENC's hits; `exec_selectOpcode` asks for ENC's own
cache. -/
theorem exec_selectOpcode_of_hit (hhit : cacheRead c (pixelHash px) = px → cacheRead s.dec.cache (pixelHash px) = px)
    (hfit : opcodeFits s (instrLength (selectOpcode c s.dec.prev px).1) = true) :
    exec (selectOpcode c s.dec.prev px).1 s = retire s px (instrLength (selectOpcode c s.dec.prev px).1) := by
  by_cases h : cacheRead c (pixelHash px) = px
  · rw [selectOpcode_hit h]
    simp only [exec, execIndex, hhit h, instrLength]
  · rw [selectOpcode_miss h] at hfit ⊢
    exact exec_differOpcode hfit

/-! ## The whole stream -/

/-- DEC writes the pixels that the opcodes code. -/
theorem Codes.decodes (h : Codes c prev r pxs is) (hs : Follows base c prev r pxs is s) :
    Decodes base s (List.replicate r prev ++ pxs) (is.flatMap encode).length := by
  induction h generalizing s with
  | nil => exact decodes_nil hs.running
  | @extend c prev r pxs is _ ih =>
    have hjoin : List.replicate r prev ++ prev :: pxs = List.replicate (r + 1) prev ++ pxs := by
      rw [List.replicate_succ', List.append_assoc, List.singleton_append]
    have hmissing := hs.missing
    rw [List.length_cons] at hmissing
    rw [hjoin]
    exact ih { hs with missing := by omega }
  | @flush c prev r pxs is hpos hcap _ ih =>
    obtain rfl := hs.prevIs
    have hmissing := hs.missing
    have hexec := exec_run hs.running.outSet (r := r) (by rw [missing]; omega)
    obtain ⟨t, hstep, hdecoded, ht⟩ :=
      hs.opcode (wf_run_iff.2 ⟨hpos, hcap⟩) hpos (qxs := pxs) rfl hexec hs.tracks.run
    rw [List.flatMap_cons, List.length_append, encode_length]
    exact .cons hstep hdecoded (ih ht)
  | @select c prev px pxs is _ ih =>
    obtain rfl := hs.prevIs
    obtain ⟨out, hout⟩ := Option.ne_none_iff_exists'.1 hs.running.outSet
    have hends := hs.ends
    rw [List.flatMap_cons, List.length_append, encode_length] at hends
    have hexec := exec_selectOpcode_of_hit (hs.tracks.hit px) ((opcodeFits_iff _ _).2 (by omega))
    rw [retire_eq hout] at hexec
    obtain ⟨t, hstep, hdecoded, ht⟩ :=
      hs.opcode (selectOpcode_wf c s.dec.prev px) (le_refl 1) (qxs := pxs) (by rw [List.length_cons]; omega) hexec
        (hs.tracks.store px)
    rw [List.flatMap_cons, List.length_append, encode_length]
    exact .cons (pxs := List.replicate 1 px) hstep hdecoded (ih ht)

end Sys2Proof.Machine
end

section
/-!
A decode job from START to DONE on a stream whose opcodes code an image (42_decoder.md R160 to R173): the header is accepted,
the opcodes write the image, the end marker stands behind them.
-/

namespace Sys2Proof.Machine

variable {s : State} {base : Nat} {hdr : Header} {pxs : List Pixel} {is : List Instr}

theorem endMarker_length : endMarker.length = 8 := rfl

theorem streamOf_length (hdr : Header) (is : List Instr) : (streamOf hdr is).length = 22 + (is.flatMap encode).length := by
  rw [streamOf, List.length_append, List.length_append, headerPack_length, endMarker_length]
  omega

/-- The stream in its three pieces. -/
theorem stands_streamOf {m : Memory} (h : Stands m base (streamOf hdr is)) :
    Stands m base (headerPack hdr.width hdr.height hdr.channels hdr.colorspace) ∧
    Stands m (base + 14) (is.flatMap encode) ∧ Stands m (base + (14 + (is.flatMap encode).length)) endMarker := by
  obtain ⟨hheader, hrest⟩ := stands_append.1 h
  rw [headerPack_length] at hrest
  obtain ⟨hbody, hmarker⟩ := stands_append.1 hrest
  rw [Nat.add_assoc] at hmarker
  exact ⟨hheader, hbody, hmarker⟩

/-- Before START: DEC_IN holds a stream whose opcodes code the pixels of an image that DEC may decode, and DEC_OUT has room for
it apart from DEC_IN. -/
structure DecodeRequest (s : State) (base : Nat) (hdr : Header) (pxs : List Pixel) (is : List Instr) : Prop where
  turns : s.turns = []
  alone : s.enc.phase ≠ .busy
  wide : 64 ≤ s.cfg.counterWidth
  inSet : s.dec.inBuf = some base
  outSet : s.dec.outBuf ≠ none
  apart : ∀ a, covers (decInBuffer s.dec) a = true → covers s.dec.outBuf a = false
  stream : Stands s.mem base (streamOf hdr is)
  length : s.dec.inLen.toNat = (streamOf hdr is).length
  channels : hdr.channels = 3 ∨ hdr.channels = 4
  limit : hdr.width.toNat * hdr.height.toNat ≤ s.cfg.maxPixels
  outSize : hdr.width.toNat * hdr.height.toNat * hdr.channels.toNat ≤ bufSize s.dec.outBuf
  codes : Codes (cacheInit s.cfg) s.cfg.prevInitPixel 0 pxs is
  count : pxs.length = hdr.width.toNat * hdr.height.toNat
  tracks : Tracks (cacheInit s.cfg) (cacheInit s.cfg) s.cfg.prevInitPixel

/-- The state that an accepted header leaves (R160). -/
def decStartedOn (s : State) (hdr : Header) : State := decLaunch (setHeaderRegs (decClear s) hdr)

namespace DecodeRequest

variable (h : DecodeRequest s base hdr pxs is)
include h

theorem inLen_eq : (counter s.cfg s.dec.inLen.toNat).toNat = 22 + (is.flatMap encode).length := by
  rw [counter_wide h.wide s.dec.inLen.isLt, h.length, streamOf_length]

/-- START accepts the header (40_shared.md R108). -/
theorem start : decStart s = .next (decStartedOn s hdr) := by
  have hlen := h.inLen_eq
  obtain ⟨hheader, -, -⟩ := stands_streamOf h.stream
  have hread := readHeader_of_headerPack hheader
  have hmagic : readBytes s.mem base 4 = magic := (stands_append.1 (stands_append.1 (stands_append.1 hheader).1).1).1
  have hapart : ¬ (encBusy s && enginesOverlap s) = true := by simp [encBusy, h.alone]
  have hlong : ¬ (decClear s).dec.l.toNat < 14 := by
    rw [decClear_dec_l]
    omega
  rw [decStart, if_neg hapart, decHeader, if_neg hlong]
  simp only [decClear_dec_inBuf, h.inSet, decClear_mem, hmagic, hread]
  exact decAccept_launch h.channels h.limit h.outSize

theorem decoding : Decoding base (decStartedOn s hdr) where
  turns := h.turns
  busy := rfl
  wide := h.wide
  job := decJobOk_decLaunch h.wide h.inSet (h.inLen_eq.ge.trans' (by omega)) h.channels h.limit h.outSize
  inSet := h.inSet
  outSet := h.outSet
  apart := h.apart

theorem cursor_eq : (decStartedOn s hdr).dec.cursor.toNat = 14 := counter_wide h.wide (by norm_num)

theorem bodyEnd_eq : (decStartedOn s hdr).dec.bodyEnd.toNat = 14 + (is.flatMap encode).length := by
  have hbody := h.decoding.job.bodyEnd
  rw [show (decStartedOn s hdr).dec.l = counter s.cfg s.dec.inLen.toNat from rfl, h.inLen_eq] at hbody
  omega

theorem n_eq : (decStartedOn s hdr).dec.n.toNat = hdr.width.toNat * hdr.height.toNat := h.decoding.job.count

/-- At job start DEC stands at the first opcode. -/
theorem follows : Follows base (cacheInit s.cfg) s.cfg.prevInitPixel 0 pxs is (decStartedOn s hdr) where
  running := h.decoding
  prevIs := rfl
  tracks := h.tracks
  stream := by
    rw [h.cursor_eq]
    exact (stands_streamOf h.stream).2.1
  ends := by rw [h.cursor_eq, h.bodyEnd_eq]
  missing := by
    rw [h.n_eq, h.count, Nat.zero_add]
    exact Nat.zero_add _

end DecodeRequest

/-- The trailer step with the end marker at the cursor and nothing behind it, which either trailing-bytes policy accepts
(R172). -/
theorem decTrailer_done (hin : s.dec.inBuf = some base) (hlen : s.dec.cursor.toNat + 8 = s.dec.l.toNat)
    (hmarker : Stands s.mem (base + s.dec.cursor.toNat) endMarker) :
    decTrailer s = .next { s with dec := { s.dec with phase := .done } } := by
  have hok : trailerLengthOk s = true := by
    unfold trailerLengthOk
    split
    · exact decide_eq_true hlen.le
    · exact decide_eq_true hlen
  have hread : readBytes s.mem (base + s.dec.cursor.toNat) 8 = endMarker := hmarker
  simp [decTrailer, hok, hin, hread]

/-- What a decode job leaves: DONE, the header's fields in the result registers, the image in DEC_OUT and no other byte
written. -/
structure DecodedJob (s u : State) (hdr : Header) (pxs : List Pixel) : Prop where
  done : u.dec.phase = .done
  width : u.dec.width = hdr.width
  height : u.dec.height = hdr.height
  channels : u.dec.channels = hdr.channels
  colorspace : u.dec.colorspace = hdr.colorspace
  mem : u.mem = writeBytes s.mem (bufBase s.dec.outBuf) (pxs.flatMap (pixelBytes hdr.channels))

/-- The opcodes have written the image from the first byte of DEC_OUT on. -/
theorem Decoded.decodedJob {t : State} {len : Nat} (hd : Decoded (decStartedOn s hdr) t pxs len) :
    DecodedJob s { t with dec := { t.dec with phase := .done } } hdr pxs where
  done := rfl
  width := congrArg Dec.width hd.regs
  height := congrArg Dec.height hd.regs
  channels := congrArg Dec.channels hd.regs
  colorspace := congrArg Dec.colorspace hd.regs
  mem := by
    refine hd.mem.trans ?_
    rw [decPixelAddr, show (decStartedOn s hdr).dec.produced.toNat = 0 from rfl, Nat.zero_mul]
    rfl

section

variable (h : DecodeRequest s base hdr pxs is) {t : State} (ht : Decoding base t)
  (hd : Decoded (decStartedOn s hdr) t pxs (is.flatMap encode).length)
include h hd

theorem DecodeRequest.marker_stands : Stands t.mem (base + t.dec.cursor.toNat) endMarker := by
  have hlen : s.dec.inLen.toNat = 22 + (is.flatMap encode).length := h.length.trans (streamOf_length _ _)
  have hsame := h.decoding.sameStream hd (by
    rw [h.n_eq, h.count]
    exact (Nat.zero_add _).le)
  rw [hd.cursor, h.cursor_eq]
  refine (stands_streamOf h.stream).2.2.congr fun i hi => ?_
  rw [endMarker_length] at hi
  rw [Nat.add_assoc]
  exact hsame.readByte_eq h.inSet (show _ < s.dec.inLen.toNat by omega)

include ht in
/-- Behind the opcodes no pixel is missing and the trailer step finds the end marker (R172). -/
theorem DecodeRequest.trailer : step t = .next { t with dec := { t.dec with phase := .done } } := by
  have hproduced : t.dec.produced.toNat = t.dec.n.toNat := by
    rw [hd.produced, hd.n_eq, h.n_eq, h.count]
    exact Nat.zero_add _
  have hl : t.dec.l.toNat = 22 + (is.flatMap encode).length := by
    rw [hd.regs]
    exact h.inLen_eq
  have hcursor : t.dec.cursor.toNat = 14 + (is.flatMap encode).length := by
    rw [hd.cursor, h.cursor_eq]
  rw [step_eq_decAct ht.turns ht.busy, decAct_trailer ht.busy (by omega)]
  exact decTrailer_done ht.inSet (by omega) (h.marker_stands hd)

end

/-- From the job-start state the opcodes take their steps, and the trailer step ends the job (R161, R172, R173). -/
theorem DecodeRequest.decodes (h : DecodeRequest s base hdr pxs is) :
    ∃ k u, Reaches k (decStartedOn s hdr) u ∧ DecodedJob s u hdr pxs := by
  obtain ⟨k, t, hreach, ht, hdecoded⟩ := h.codes.decodes h.follows
  rw [List.replicate_zero, List.nil_append] at hdecoded
  have htrailer := h.trailer ht hdecoded
  exact ⟨k + 1, _, reaches_trans hreach (reaches_succ htrailer (reaches_zero _)), hdecoded.decodedJob⟩

end Sys2Proof.Machine
end

section
/-!
The contract (41_encoder.md R141): what ENC wrote DEC reads back.
-/

namespace Sys2Proof.Machine

variable {s t u : State}

/-! ## The image as bytes -/

/-- A pixel of an image is the bytes that it was fetched from (20_memory.md R51, R52). -/
theorem pixelBytes_fetchPixel (s : State) (i : Nat) :
    pixelBytes s.enc.channels (fetchPixel s i) = readBytes s.mem (encPixelAddr s.enc i) (pixelSize s.enc.channels) := by
  by_cases hc : s.enc.channels = 4
  · rw [pixelBytes, pixelSize, fetchPixel, if_pos hc, if_pos hc, if_pos hc]
    rfl
  · rw [pixelBytes, pixelSize, if_neg hc, if_neg hc]
    rfl

/-- An image is the bytes of ENC_IN. -/
theorem pixelsFrom_bytes (s : State) (i k : Nat) :
    (pixelsFrom s i k).flatMap (pixelBytes s.enc.channels) =
      readBytes s.mem (encPixelAddr s.enc i) (k * pixelSize s.enc.channels) := by
  induction k generalizing i with
  | zero => simp [pixelsFrom, readBytes]
  | succ k ih =>
    have haddr : encPixelAddr s.enc (i + 1) = encPixelAddr s.enc i + pixelSize s.enc.channels := by
      rw [encPixelAddr, encPixelAddr, Nat.add_mul, Nat.one_mul, Nat.add_assoc]
    rw [pixelsFrom, List.flatMap_cons, pixelBytes_fetchPixel, ih, haddr, ← readBytes_add, Nat.add_mul, Nat.one_mul,
      Nat.add_comm (k * _)]

/-- The image of ENC_IN is all of its bytes. -/
theorem pixelsFrom_image {inb : Buffer} (hin : s.enc.inBuf = some inb) (hc : s.enc.channels = 3 ∨ s.enc.channels = 4)
    (k : Nat) :
    (pixelsFrom s 0 k).flatMap (pixelBytes s.enc.channels) = readBytes s.mem inb.base (k * s.enc.channels.toNat) := by
  rw [pixelsFrom_bytes, pixelSize_eq hc, encPixelAddr, Nat.zero_mul, hin]
  rfl

/-- A copy of `n` bytes reads as the bytes copied. -/
theorem readByte_copy (m m' : Memory) (a a' : Nat) {n j : Nat} (hj : j < n) :
    readByte (writeBytes m' a' (readBytes m a n)) (a' + j) = readByte m (a + j) := by
  have hlen : j < (readBytes m a n).length := by rwa [readBytes_length]
  rw [readByte_writeBytes_inside _ _ _ _ hlen, readBytes_getElem]

/-! ## The host's two requests -/

/-- The host's START of ENC. -/
theorem EncodeRequest.step_start (h : EncodeRequest { s with host := [] }) (hhost : s.host = [.writeReg .encCtrl 1]) :
    step s = .next (encLaunch { s with host := [] }) := by
  have hturn := step_eq_hostDo (s := s) h.turns h.alone h.may.notBusy hhost
  exact hturn.trans ((writeReg_encCtrl_start h.may (by decide)).trans (encStart_admitted h.may h.admitted))

/-- The host has written DEC_IN_LEN and has `rest` still to do. -/
def withInLen (s : State) (len : Word64) (rest : List HostAction) : State :=
  { s with host := rest, dec := { s.dec with inLen := len } }

/-- The host's write of DEC_IN_LEN and START of DEC. -/
theorem reaches_decStart {len : Word64} {k : Nat} (hturns : s.turns = []) (henc : s.enc.phase ≠ .busy)
    (hdec : s.dec.phase ≠ .busy) (hhost : s.host = [.writeReg .decInLen len, .writeReg .decCtrl 1])
    (hstart : decStart (withInLen s len []) = .next t) (hreach : Reaches k t u) : Reaches (k + 2) s u := by
  have hlen : step s = .next (withInLen s len [.writeReg .decCtrl 1]) := by
    rw [step_eq_hostDo hturns hdec henc hhost]
    exact writeReg_dec (s := { s with host := [.writeReg .decCtrl 1] }) hdec rfl len
  have hctrl : step (withInLen s len [.writeReg .decCtrl 1]) = .next t := by
    rw [step_eq_hostDo (s := withInLen s len _) hturns hdec henc rfl]
    exact (writeReg_dec (s := withInLen s len []) (r := .decCtrl) hdec rfl 1).trans hstart
  exact reaches_succ hlen (reaches_succ hctrl hreach)

theorem not_covers_left {b c : Option Buffer} {a : Nat} (h : overlap b c = false) (hc : covers c a = true) :
    covers b a = false := by
  by_contra hb
  rw [not_covers_both h (Bool.not_eq_false _ ▸ hb)] at hc
  cases hc

/-- A byte of DEC_IN is a byte of the buffer that the stream was written into. -/
theorem covers_of_decInBuffer {d : Dec} {b : Buffer} {a : Nat} (hin : d.inBuf = some b.base) (hlen : d.inLen.toNat ≤ b.size)
    (ha : covers (decInBuffer d) a = true) : covers (some b) a = true := by
  rw [decInBuffer, hin, Option.map_some, covers_true] at ha
  rw [covers_true]
  exact ⟨ha.1, ha.2.trans_le (Nat.add_le_add_left hlen _)⟩

/-! ## The contract -/

/-- The output of an encode job is a stream that DEC may decode into a buffer apart from it. -/
theorem EncodeRequest.decodeRequest (h : EncodeRequest s) {outb dout : Buffer} {is : List Instr} (ht : Encodes s t is)
    (hout : s.enc.outBuf = some outb) (hin : s.dec.inBuf = some outb.base) (hdout : s.dec.outBuf = some dout)
    (hsize : s.enc.width.toNat * s.enc.height.toNat * s.enc.channels.toNat ≤ dout.size)
    (hapart : overlap (some dout) (some outb) = false)
    (hinit : s.cfg.cacheInitPixel = s.cfg.prevInitPixel ∨
      pixelHash s.cfg.cacheInitPixel ≠ pixelHash s.cfg.prevInitPixel) :
    DecodeRequest (withInLen t t.enc.outLen []) outb.base (encHeader s.enc)
      (pixelsFrom s 0 (s.enc.width.toNat * s.enc.height.toNat)) is where
  turns := ht.turns
  alone := ht.done ▸ nofun
  wide := show 64 ≤ t.cfg.counterWidth from ht.cfg ▸ h.wide
  inSet := (congrArg Dec.inBuf ht.dec).trans hin
  outSet := show t.dec.outBuf ≠ none by
    rw [ht.dec, hdout]
    nofun
  apart := fun a ha => by
    have hfits : t.enc.outLen.toNat ≤ bufSize (some outb) := hout ▸ ht.fits
    have hin' : (withInLen t t.enc.outLen []).dec.inBuf = some outb.base := (congrArg Dec.inBuf ht.dec).trans hin
    have hdout' : (withInLen t t.enc.outLen []).dec.outBuf = some dout := (congrArg Dec.outBuf ht.dec).trans hdout
    rw [hdout']
    exact not_covers_left hapart (covers_of_decInBuffer hin' hfits ha)
  stream := by
    have hmem := ht.mem
    rw [hout] at hmem
    exact show Stands t.mem outb.base _ from hmem ▸ stands_writeBytes _ _ _
  length := ht.outLen
  channels := h.admitted.channels
  limit := show _ ≤ t.cfg.maxPixels from ht.cfg ▸ h.admitted.limit
  outSize := show _ ≤ bufSize t.dec.outBuf from ht.dec ▸ hdout ▸ hsize
  codes := show Codes (cacheInit t.cfg) t.cfg.prevInitPixel _ _ _ from ht.cfg ▸ ht.codes
  count := pixelsFrom_length _ _ _
  tracks := tracks_init (show t.cfg.cacheInitPixel = t.cfg.prevInitPixel ∨ _ from ht.cfg ▸ hinit)

/-- Settles O45: the encode job leaves a stream whose opcodes code the image, and the decode job on that stream writes the
image that they code, which as bytes is ENC_IN. -/
theorem decodeOfEncodeIsIdentity : Obligations.DecodeOfEncodeIsIdentity := by
  unfold Obligations.DecodeOfEncodeIsIdentity
  intro s inb outb dout hwide may admitted hdec hturns hhost hinb houtb hapart hin hdout hsize _ hdoutb hroom hinit
  have request : EncodeRequest { s with host := [] } :=
    { turns := hturns
      alone := hdec
      wide := hwide
      may := ⟨may.notBusy, may.enginesApart⟩
      admitted := ⟨admitted.channels, admitted.colorspace, admitted.inSize, admitted.outSize, admitted.limit⟩
      inSet := hinb ▸ nofun
      apart := hinb ▸ houtb ▸ hapart
      room := hroom }
  obtain ⟨t, is, hreach, ht⟩ := request.encodes
  have decoding := request.decodeRequest ht houtb hin hdout hsize hdoutb hinit
  obtain ⟨k, u, hdecode, hu⟩ := decoding.decodes
  refine ⟨t, reaches_succ (request.step_start hhost) hreach, ht.done, k + 2, u, ?_, hu.done, hu.width, hu.height,
    hu.channels, hu.colorspace, fun j hj => ?_⟩
  · exact reaches_decStart (s := { t with host := _ }) ht.turns decoding.alone (ht.dec ▸ hdec) rfl decoding.start hdecode
  · have himage := pixelsFrom_image (s := { s with host := [] }) hinb admitted.channels
    have hmem := hu.mem
    rw [show (encHeader s.enc).channels = s.enc.channels from rfl, himage,
      show (withInLen t t.enc.outLen []).dec.outBuf = some dout from (congrArg Dec.outBuf ht.dec).trans hdout] at hmem
    rw [hmem]
    exact readByte_copy _ _ _ _ hj

end Sys2Proof.Machine
end

section
/-!
What an error and a completed opcode leave behind, in the terms of the claims (42_decoder.md R163 to R169, 60_exceptions.md
R208). An error is one update, and an opcode is the pixel written `k` times and the cursor; so what the shared operations do is
said here once, and each opcode owes only which of them it ends with.
-/

namespace Sys2Proof.Machine

variable {s : State} {out : Buffer} {len k : Nat}

theorem errorRaised_raiseErr (s : State) (e : DecErr) (off : Word64) : ErrorRaised s (raiseErr s e off) e off where
  regs := rfl
  memory := raiseErr_readByte s e off
  rest := rfl

/-- A step that raises an error, in the form of the statements. -/
theorem raises_of_eq {o : Host.Outcome State Fault Refusal} {e : DecErr} {off : Word64}
    (h : o = .next (raiseErr s e off)) : ∃ t, o = .next t ∧ ErrorRaised s t e off :=
  ⟨_, h, errorRaised_raiseErr s e off⟩

theorem pixelBytes_eq_outputBytes (c : Byte) (px : Pixel) : pixelBytes c px = outputBytes c px := rfl

/-- The pixels that are missing are counted without a cut. -/
theorem OpcodeReady.count_fits (h : OpcodeReady s out len) (hk : s.dec.produced.toNat + k ≤ s.dec.n.toNat) :
    s.dec.produced.toNat + k < 2 ^ s.cfg.counterWidth ∧ s.dec.produced.toNat + k < 2 ^ 64 :=
  ⟨hk.trans_lt h.countWidth, hk.trans_lt s.dec.n.isLt⟩

/-- The cursor moves to the end of the opcode without a cut. -/
theorem OpcodeReady.cursor_eq (h : OpcodeReady s out len) :
    (counter s.cfg (s.dec.cursor.toNat + len)).toNat = s.dec.cursor.toNat + len :=
  counter_toNat_of_lt (h.fits.trans_lt h.bodyWidth) (h.fits.trans_lt s.dec.bodyEnd.isLt)

/-- Each of `k` missing pixels that are written stands at its output position. -/
theorem OpcodeReady.output_eq (h : OpcodeReady s out len) (hk : s.dec.produced.toNat + k ≤ s.dec.n.toNat) (px : Pixel)
    {j : Nat} (hj : j < k) :
    readBytes (putPixels s px k).mem (out.base + (s.dec.produced.toNat + j) * s.dec.channels.toNat) s.dec.channels.toNat =
      outputBytes s.dec.channels px := by
  obtain ⟨hw, h64⟩ := h.count_fits hk
  rw [← decPixelAddr_eq h.out h.channels, ← pixelSize_eq h.channels, ← pixelBytes_eq_outputBytes]
  exact putPixels_output px k s hw h64 j hj

/-- No byte outside the output positions of `k` missing pixels is written with them. -/
theorem OpcodeReady.sameOutside (h : OpcodeReady s out len) (hk : s.dec.produced.toNat + k ≤ s.dec.n.toNat) (px : Pixel) :
    SameOutside s.mem (putPixels s px k).mem (out.base + s.dec.produced.toNat * s.dec.channels.toNat)
      (k * s.dec.channels.toNat) := by
  obtain ⟨hw, h64⟩ := h.count_fits hk
  intro b hb
  apply putPixels_readByte_outside px k s hw h64
  rwa [decPixelAddr_eq h.out h.channels, decPixelAddr_eq h.out h.channels, Nat.add_mul, ← Nat.add_assoc]

/-- An opcode that is not truncated and yields the pixel `px` (R163, R164, R166 to R168). -/
theorem OpcodeReady.retires (h : OpcodeReady s out len) (px : Pixel) :
    ∃ t, retire s px len = .next t ∧ OnePixelDone s t out px len := by
  have hone : s.dec.produced.toNat + 1 ≤ s.dec.n.toNat := h.missing
  obtain ⟨hw, h64⟩ := h.count_fits hone
  have houtput := h.output_eq hone px Nat.zero_lt_one
  have hmemory := h.sameOutside hone px
  rw [Nat.one_mul] at hmemory
  exact ⟨_, retire_eq h.out px len,
    { cursor := h.cursor_eq
      prev := rfl
      produced := putPixel_produced s px hw h64
      pixels := rfl
      slot := cacheRead_cacheWrite_self _ _
      otherSlots := fun _ => cacheRead_cacheWrite_ne _
      output := houtput
      memory := hmemory
      otherRegs := rfl
      rest := rfl }⟩

/-- A RUN that writes PREV `k` times, at least once and not more often than pixels are missing (R165). -/
theorem OpcodeReady.retiresRun (h : OpcodeReady s out 1) (hpos : 1 ≤ k)
    (hk : s.dec.produced.toNat + k ≤ s.dec.n.toNat) : ∃ t, retireRun s k = .next t ∧ RunDone s t out k := by
  obtain ⟨hw, h64⟩ := h.count_fits hk
  have hcache : (advance (putPixels s s.dec.prev k) 1).dec.cache = cacheWrite s.dec.cache s.dec.prev :=
    putPixels_cache s.dec.prev k s hpos
  exact ⟨_, retireRun_eq h.out k,
    { cursor := by
        rw [advance_dec_cursor, putPixels_cfg, putPixels_dec_cursor]
        exact h.cursor_eq
      produced := putPixels_produced _ k s hw h64
      pixels := putPixels_pixels _ k s hpos
      slot := hcache ▸ cacheRead_cacheWrite_self _ _
      otherSlots := fun _ hj => hcache ▸ cacheRead_cacheWrite_ne _ hj
      output := fun _ => h.output_eq hk _
      memory := h.sameOutside hk _
      otherRegs := by
        rw [putPixels_frame]
        rfl
      rest := by
        rw [putPixels_frame]
        rfl }⟩

end Sys2Proof.Machine
end

section
/-!
The decoder's opcodes (42_decoder.md R163 to R171): for each opcode the test that it makes, and which of the shared operations
it ends with.
-/

namespace Sys2Proof.Machine

variable {s : State} {out : Buffer}

/-- An opcode of `len` bytes that DEC is ready for is not truncated. -/
theorem OpcodeReady.not_truncated {len : Nat} (h : OpcodeReady s out len) : opcodeFits s len = true :=
  (opcodeFits_iff s len).2 h.fits

theorem not_opcodeFits {len : Nat} (h : s.dec.bodyEnd.toNat < s.dec.cursor.toNat + len) : ¬ opcodeFits s len = true := by
  rw [opcodeFits_iff]
  omega

/-! ## The literals -/

theorem exec_rgba_of_fits (h : opcodeFits s 5 = true) (r g b a : Byte) :
    exec (.rgba r g b a) s = retire s ⟨r, g, b, a⟩ 5 := if_pos h

theorem exec_rgba_of_not_fits (h : ¬ opcodeFits s 5 = true) (r g b a : Byte) :
    exec (.rgba r g b a) s = .next (raiseErr s .truncatedRgba s.dec.cursor) := if_neg h

/-- Settles O10: five bytes are tested for, and the four literal ones are the pixel. -/
theorem rgbaExecutes : Obligations.RgbaExecutes := by
  unfold Obligations.RgbaExecutes
  refine fun s r g b a => ⟨fun out ready => ?_, fun hend => ?_⟩
  · rw [exec_rgba_of_fits ready.not_truncated]
    exact ready.retires _
  · exact raises_of_eq (exec_rgba_of_not_fits (not_opcodeFits hend) r g b a)

theorem exec_rgb_of_fits (h : opcodeFits s 4 = true) (r g b : Byte) :
    exec (.rgb r g b) s = retire s ⟨r, g, b, s.dec.prev.a⟩ 4 := if_pos h

theorem exec_rgb_of_not_fits (h : ¬ opcodeFits s 4 = true) (r g b : Byte) :
    exec (.rgb r g b) s = .next (raiseErr s .truncatedRgb s.dec.cursor) := if_neg h

/-- Settles O11: four bytes are tested for, and alpha is that of PREV. -/
theorem rgbExecutes : Obligations.RgbExecutes := by
  unfold Obligations.RgbExecutes
  refine fun s r g b => ⟨fun out ready => ?_, fun hend => ?_⟩
  · rw [exec_rgb_of_fits ready.not_truncated]
    exact ready.retires _
  · exact raises_of_eq (exec_rgb_of_not_fits (not_opcodeFits hend) r g b)

/-! ## INDEX -/

/-- Settles O12: INDEX makes no test, and yields what its slot holds. -/
theorem indexExecutes : Obligations.IndexExecutes := by
  unfold Obligations.IndexExecutes
  exact fun s k out ready => ready.retires (cacheRead s.dec.cache k)

/-! ## The differential opcodes -/

/-- What DIFF ends with, and LUMA once it is not truncated: the pixel that the deltas make of PREV, or the overflow error where
they make none (R170). -/
def execDeltas (dr dg db : Int) (len : Nat) (s : State) : Host.Outcome State Fault Refusal :=
  match addDeltas s.cfg.deltaOverflow s.dec.prev dr dg db with
  | some px => retire s px len
  | none => .next (raiseErr s .deltaOverflow s.dec.cursor)

theorem exec_diff (dr dg db : Int) (s : State) : exec (.diff dr dg db) s = execDeltas dr dg db 1 s := rfl

theorem exec_luma_of_fits (h : opcodeFits s 2 = true) (dg drDg dbDg : Int) :
    exec (.luma dg drDg dbDg) s = execDeltas (drDg + dg) dg (dbDg + dg) 2 s := if_pos h

theorem exec_luma_of_not_fits (h : ¬ opcodeFits s 2 = true) (dg drDg dbDg : Int) :
    exec (.luma dg drDg dbDg) s = .next (raiseErr s .truncatedLuma s.dec.cursor) := if_neg h

/-- Under `wrap`, or where every sum fits, the deltas make a pixel. -/
theorem OpcodeReady.execDeltas_retires {len : Nat} (h : OpcodeReady s out len) {dr dg db : Int}
    (hsums : s.cfg.deltaOverflow = .wrap ∨ SumsFit s.dec.prev dr dg db) :
    ∃ px t, execDeltas dr dg db len s = .next t ∧ DeltaPixel s.dec.prev px dr dg db ∧ OnePixelDone s t out px len := by
  obtain ⟨px, hadd, hpx⟩ := addDeltas_some hsums
  obtain ⟨t, ht, hdone⟩ := h.retires px
  refine ⟨px, t, ?_, hpx, hdone⟩
  rw [execDeltas, hadd]
  exact ht

/-- Under `error` a sum that does not fit is the overflow error. -/
theorem execDeltas_overflow {dr dg db : Int} (hpolicy : s.cfg.deltaOverflow = .error)
    (hsums : ¬ SumsFit s.dec.prev dr dg db) (len : Nat) :
    execDeltas dr dg db len s = .next (raiseErr s .deltaOverflow s.dec.cursor) := by
  rw [execDeltas, hpolicy, addDeltas_none hsums]

/-- Settles O13: DIFF makes no test but that of its sums. -/
theorem diffExecutes : Obligations.DiffExecutes := by
  unfold Obligations.DiffExecutes
  refine fun s dr dg db => ⟨fun out ready hsums => ?_, fun hpolicy hsums => ?_⟩
  · exact ready.execDeltas_retires hsums
  · exact raises_of_eq (execDeltas_overflow hpolicy hsums 1)

/-- Settles O14: once the second byte is there, LUMA ends as DIFF does. -/
theorem lumaExecutes : Obligations.LumaExecutes := by
  unfold Obligations.LumaExecutes
  refine fun s dg drDg dbDg => ⟨fun out ready hsums => ?_, fun hend hpolicy hsums => ?_, fun hend => ?_⟩
  · rw [exec_luma_of_fits ready.not_truncated]
    exact ready.execDeltas_retires hsums
  · rw [exec_luma_of_fits ((opcodeFits_iff s 2).2 hend)]
    exact raises_of_eq (execDeltas_overflow hpolicy hsums 2)
  · exact raises_of_eq (exec_luma_of_not_fits (not_opcodeFits hend) dg drDg dbDg)

/-! ## RUN -/

theorem exec_run_clamped {n : Nat} (h : n ≤ missing s.dec ∨ s.cfg.runOvershoot = .clamp) :
    exec (.run n) s = retireRun s (min n (missing s.dec)) := by
  refine if_neg fun ⟨hover, hpolicy⟩ => ?_
  rcases h with hle | hclamp
  · omega
  · rw [hclamp] at hpolicy
    cases hpolicy

theorem exec_run_overshoot {n : Nat} (hpolicy : s.cfg.runOvershoot = .error) (h : missing s.dec < n) :
    exec (.run n) s = .next (raiseErr s .runOvershoot s.dec.cursor) := if_pos ⟨h, hpolicy⟩

/-- Settles O15: what is clamped is the count, which is at least 1 while a pixel is missing. -/
theorem runExecutes : Obligations.RunExecutes := by
  unfold Obligations.RunExecutes
  refine fun s n => ⟨fun out ready hpos hfits => ?_, fun hpolicy hover => ?_⟩
  · have hmissing := ready.missing
    rw [exec_run_clamped hfits]
    exact ready.retiresRun (by rw [missing]; omega) (by rw [missing]; omega)
  · exact raises_of_eq (exec_run_overshoot hpolicy hover)

end Sys2Proof.Machine
end

section
/-!
DEC's step around the opcodes (42_decoder.md R161, R162, R172): the opcode that it fetches, the underfill error, the trailer.
-/

namespace Sys2Proof.Machine

variable {s : State} {base : Nat}

/-! ## The opcode step -/

theorem decStep_underfilled (h : s.dec.bodyEnd.toNat ≤ s.dec.cursor.toNat) :
    decStep s = .next (raiseErr s .underfilled s.dec.cursor) := if_pos h

theorem decStep_exec {i : Instr} (hend : s.dec.cursor.toNat < s.dec.bodyEnd.toNat) (hin : s.dec.inBuf = some base)
    (hfetch : fetchOpcode s base = some i) : decStep s = exec i s := by
  rw [decStep, if_neg hend.not_ge]
  simp only [hin, hfetch]

/-- Settles O20: the test of BODY_END comes before the fetch. -/
theorem underfilledOutputRaises : Obligations.UnderfilledOutputRaises := by
  unfold Obligations.UnderfilledOutputRaises
  intro s hb hp hend
  rw [decAct_opcode hb hp]
  exact raises_of_eq (decStep_underfilled hend)

/-- Bytes that hold an opcode begin with the bytes of that opcode, which is well-formed (30_encoding.md R84). -/
theorem stands_of_decode {m : Memory} {a k : Nat} {i : Instr} {rest : List Byte}
    (h : decode (readBytes m a k) = .ok (i, rest)) : i.wf = true ∧ instrLength i ≤ k ∧ Stands m a (encode i) := by
  obtain ⟨hwf, hbytes⟩ := encodeInvertsDecode _ _ _ h
  have hlen : instrLength i + rest.length = k := by
    have := congrArg List.length hbytes
    rwa [List.length_append, encode_length, readBytes_length] at this
  have hstands : Stands m a (encode i ++ rest) := by
    rw [Stands, List.length_append, encode_length, hlen, hbytes]
  exact ⟨hwf, by omega, (stands_append.1 hstands).1⟩

/-- Settles O18: the fetch finds the opcode that stands at the cursor, whatever bytes the window holds behind it. -/
theorem stepRunsDecodedOpcode : Obligations.StepRunsDecodedOpcode := by
  unfold Obligations.StepRunsDecodedOpcode
  intro s base k i rest hnext hb hp hin hk hdecode
  obtain ⟨hwf, hlen, hstands⟩ := stands_of_decode hdecode
  have hpos := instrLength_pos i
  have hfetch : fetchOpcode (popTurn s) base = some i :=
    fetchOpcode_of_stands hwf (show s.dec.cursor.toNat + instrLength i ≤ s.dec.bodyEnd.toNat by omega) hstands
  rw [step, hnext, agentAct, decAct_opcode (s := popTurn s) hb hp]
  exact decStep_exec (show s.dec.cursor.toNat < s.dec.bodyEnd.toNat by omega) hin hfetch

/-! ## The trailer step -/

/-- The model's two tests are the two halves of R172. -/
theorem trailerGood_iff :
    TrailerGood s base ↔
      trailerLengthOk s = true ∧ readBytes s.mem (base + s.dec.cursor.toNat) 8 = endMarker := by
  refine and_congr ?_ Iff.rfl
  unfold trailerLengthOk
  split
  · exact decide_eq_true_iff.symm
  · exact eq_comm.trans decide_eq_true_iff.symm

theorem decTrailer_good (hin : s.dec.inBuf = some base) (h : TrailerGood s base) :
    decTrailer s = .next { s with dec := { s.dec with phase := .done } } := by
  obtain ⟨hlen, hmarker⟩ := trailerGood_iff.1 h
  simp [decTrailer, hlen, hin, hmarker]

theorem decTrailer_bad (hin : s.dec.inBuf = some base) (h : ¬ TrailerGood s base) :
    decTrailer s = .next (raiseErr s .badEndMarker s.dec.cursor) := by
  rw [trailerGood_iff, not_and] at h
  by_cases hlen : trailerLengthOk s = true
  · simp [decTrailer, hlen, hin, h hlen]
  · simp [decTrailer, hlen]

/-- Settles O21: with all pixels produced the step is the trailer step. -/
theorem trailerChecked : Obligations.TrailerChecked := by
  unfold Obligations.TrailerChecked
  intro s base hb hp hin
  have hdone : ¬ s.dec.produced.toNat < s.dec.n.toNat := hp ▸ lt_irrefl _
  rw [decAct_trailer hb hdone]
  exact ⟨decTrailer_good hin, fun hbad => raises_of_eq (decTrailer_bad hin hbad)⟩

end Sys2Proof.Machine
end

section
/-!
START of a decode job (42_decoder.md R160): the header is checked in the order of 40_shared.md R108, and what passes every check
is launched.
-/

namespace Sys2Proof.Machine

variable {s : State} {base : Nat}

theorem storeReg_decCtrl_set (s : State) {v : Word64} (h : v.getLsbD 0 = true) : storeReg s .decCtrl v = decStart s := by
  rw [storeReg, if_pos h]

/-- A write of START to a DEC that may be started clears its registers and reads the header (10_state.md R37). -/
theorem writeReg_decCtrl_start (may : DecMayStart s) {v : Word64} (hv : v.getLsbD 0 = true) :
    writeReg s .decCtrl v = decHeader { s with dec := decStarted s.dec } := by
  have hapart : ¬ (encBusy s && enginesOverlap s) = true := by
    simpa [encBusy] using may.enginesApart
  rw [writeReg_dec may.notBusy rfl, storeReg_decCtrl_set s hv, decStart, if_neg hapart, decClear_eq may.lengthFits]

/-! ## The checks in their order -/

theorem decHeader_truncated (h : s.dec.l.toNat < 14) : decHeader s = .next (raiseErr s .truncatedHeader 0) := if_pos h

theorem decHeader_badMagic (hlen : 14 ≤ s.dec.l.toNat) (hin : s.dec.inBuf = some base)
    (hmagic : readBytes s.mem base 4 ≠ magic) : decHeader s = .next (raiseErr s .badMagic 0) := by
  rw [decHeader, if_neg hlen.not_gt]
  simp only [hin]
  exact if_pos hmagic

/-- A packed header passes the length and the magic and is unpacked into the result registers. -/
theorem decHeader_unpacked (hlen : 14 ≤ s.dec.l.toNat) (hin : s.dec.inBuf = some base) {w h : Word32} {c cs : Byte}
    (hheader : readBytes s.mem base 14 = headerPack w h c cs) :
    decHeader s = decAccept (setHeaderRegs s ⟨w, h, c, cs⟩) := by
  have hstands : Stands s.mem base (magic ++ (be32Bytes w ++ (be32Bytes h ++ [c, cs]))) := hheader
  have hmagic : readBytes s.mem base 4 = magic := (stands_append.1 hstands).1
  rw [decHeader, if_neg hlen.not_gt]
  simp only [hin]
  rw [if_neg (not_not.2 hmagic), readHeader_of_headerPack hheader]

/-! ## The job-start state -/

/-- BODY_END is held whole where the stream's length is. -/
theorem bodyEndOf_toNat_of_fits {cfg : Config} {l : Word64} (hlen : 14 ≤ l.toNat) (hfits : l.toNat < 2 ^ cfg.counterWidth) :
    (bodyEndOf cfg l).toNat = max 14 (l.toNat - 8) := by
  have := l.isLt
  exact counter_toNat_of_lt (lt_of_le_of_lt (by omega) hfits) (by omega)

/-- The cursor of the job start is held whole where the header fits the stream. -/
theorem counter_14_of_fits {cfg : Config} {l : Word64} (hlen : 14 ≤ l.toNat) (hfits : l.toNat < 2 ^ cfg.counterWidth) :
    counter cfg 14 = 14 :=
  BitVec.eq_of_toNat_eq (counter_toNat_of_lt (hlen.trans_lt hfits) (by norm_num))

/-- Settles O17: check by check, in the order of R108. -/
theorem decStartFollowsHeader : Obligations.DecStartFollowsHeader := by
  unfold Obligations.DecStartFollowsHeader
  intro s v hv may
  rw [writeReg_decCtrl_start may hv]
  refine ⟨fun hshort => raises_of_eq (decHeader_truncated hshort), fun base hin hlen => ⟨fun hmagic => ?_, ?_⟩⟩
  · exact raises_of_eq (decHeader_badMagic (s := { s with dec := decStarted s.dec }) hlen hin hmagic)
  intro w h c cs hheader
  rw [decHeader_unpacked (s := { s with dec := decStarted s.dec }) hlen hin hheader]
  refine ⟨fun h3 h4 => ?_, fun hc => ⟨fun hlarge => ?_, fun hmax hout => ?_⟩⟩
  · exact raises_of_eq (decAccept_badChannels h3 h4)
  · exact decAccept_refused hc hlarge
  · have hcursor := counter_14_of_fits hlen may.lengthFits
    refine ⟨_, decAccept_launch hc hmax hout, rfl, fun hn => counter_toNat_of_lt hn (pixels_lt w h),
      bodyEndOf_toNat_of_fits hlen may.lengthFits, ?_⟩
    rw [← hcursor]
    rfl

end Sys2Proof.Machine
end

section
/-!
A decode job ends, whatever its stream holds (42_decoder.md R175, R176). The one idea: an opcode step that does not end the job
moves the cursor towards BODY_END and PRODUCED towards N, so what is left of both shrinks; and DEC's step never stops the
machine, so the job goes on until it ends.
-/

namespace Sys2Proof.Machine

variable {s t : State}

/-! ## Progress -/

/-- An opcode step that goes on: the job's bounds stand, the cursor and PRODUCED move within them. -/
structure OpcodeProgress (s t : State) : Prop where
  n : t.dec.n = s.dec.n
  bodyEnd : t.dec.bodyEnd = s.dec.bodyEnd
  phase : t.dec.phase = s.dec.phase
  cursor : ∃ len, (len = 1 ∨ len = 2 ∨ len = 4 ∨ len = 5) ∧ t.dec.cursor.toNat = s.dec.cursor.toNat + len
  cursorHigh : t.dec.cursor.toNat ≤ s.dec.bodyEnd.toNat
  producedLow : s.dec.produced.toNat < t.dec.produced.toNat
  producedHigh : t.dec.produced.toNat ≤ s.dec.n.toNat

theorem opcodeDone_progress {px : Pixel} {k len : Nat} (hw : 64 ≤ s.cfg.counterWidth)
    (hlen : len = 1 ∨ len = 2 ∨ len = 4 ∨ len = 5) (hend : s.dec.cursor.toNat + len ≤ s.dec.bodyEnd.toNat) (hk : 1 ≤ k)
    (hmissing : s.dec.produced.toNat + k ≤ s.dec.n.toNat) : OpcodeProgress s (opcodeDone s px k len) := by
  have hcursor : (counter s.cfg (s.dec.cursor.toNat + len)).toNat = s.dec.cursor.toNat + len :=
    counter_wide hw (hend.trans_lt s.dec.bodyEnd.isLt)
  have hn : s.dec.produced.toNat + k < 2 ^ 64 := hmissing.trans_lt s.dec.n.isLt
  have hproduced : (putPixels s px k).dec.produced.toNat = s.dec.produced.toNat + k :=
    putPixels_produced px k s (hn.trans_le (Nat.pow_le_pow_right (by norm_num) hw)) hn
  rw [opcodeDone, putPixels_frame]
  exact
    { n := rfl
      bodyEnd := rfl
      phase := rfl
      cursor := ⟨len, hlen, hcursor⟩
      cursorHigh := hcursor.trans_le hend
      producedLow := hproduced.symm ▸ Nat.lt_add_of_pos_right hk
      producedHigh := hproduced.trans_le hmissing }

/-- An opcode step of a running job is an error or goes on. -/
theorem decAct_opcode_progress (h : Inv s) (hb : s.dec.phase = .busy) (hp : s.dec.produced.toNat < s.dec.n.toNat)
    (ht : decAct s = .next t) : t.dec.phase = .error ∨ OpcodeProgress s t := by
  rcases decAct_opcode_cases hb hp ht with ⟨e, rfl⟩ | ⟨len, k, px, hlen, hend, hk, hmissing, rfl⟩
  · exact .inl rfl
  · exact .inr (opcodeDone_progress h.wide hlen hend hk hmissing)

/-- Settles O24: a step that left DEC BUSY was no error. -/
theorem opcodeStepProgresses : Obligations.OpcodeStepProgresses := by
  unfold Obligations.OpcodeStepProgresses
  intro s t h hb hp ht hbusy
  rcases decAct_opcode_progress h hb hp ht with herror | progress
  · rw [herror] at hbusy
    cases hbusy
  · exact ⟨progress.cursor, progress.cursorHigh, progress.producedLow, progress.producedHigh⟩

/-! ## No step stops the machine -/

theorem execDeltas_completes {out : Buffer} (hout : s.dec.outBuf = some out) (dr dg db : Int) (len : Nat) :
    ∃ t, execDeltas dr dg db len s = .next t := by
  unfold execDeltas
  split
  · exact ⟨_, retire_eq hout _ len⟩
  · exact ⟨_, rfl⟩

/-- With DEC_OUT set every opcode answers a next state, an error being one (60_exceptions.md R200). -/
theorem exec_completes (hout : s.dec.outBuf ≠ none) (i : Instr) : ∃ t, exec i s = .next t := by
  obtain ⟨out, hout⟩ := Option.ne_none_iff_exists'.1 hout
  cases i with
  | rgba r g b a =>
    by_cases hfit : opcodeFits s 5 = true
    · exact ⟨_, (exec_rgba_of_fits hfit r g b a).trans (retire_eq hout _ 5)⟩
    · exact ⟨_, exec_rgba_of_not_fits hfit r g b a⟩
  | rgb r g b =>
    by_cases hfit : opcodeFits s 4 = true
    · exact ⟨_, (exec_rgb_of_fits hfit r g b).trans (retire_eq hout _ 4)⟩
    · exact ⟨_, exec_rgb_of_not_fits hfit r g b⟩
  | index k => exact ⟨_, retire_eq hout _ 1⟩
  | diff dr dg db => exact execDeltas_completes hout dr dg db 1
  | luma dg drDg dbDg =>
    by_cases hfit : opcodeFits s 2 = true
    · rw [exec_luma_of_fits hfit]
      exact execDeltas_completes hout _ _ _ 2
    · exact ⟨_, exec_luma_of_not_fits hfit dg drDg dbDg⟩
  | run n =>
    by_cases hover : n > missing s.dec ∧ s.cfg.runOvershoot = .error
    · exact ⟨_, exec_run_overshoot hover.2 hover.1⟩
    · exact ⟨_, (if_neg hover).trans (retireRun_eq hout _)⟩

/-- A job with a pixel missing has an output buffer (20_memory.md R50). -/
theorem DecJobOk.outBuf_ne_none {cfg : Config} {d : Dec} (job : DecJobOk cfg d) (hp : d.produced.toNat < d.n.toNat) :
    d.outBuf ≠ none := by
  intro hout
  have hchannels : 0 < d.channels.toNat := by
    rcases job.channels with hc | hc <;> simp [hc]
  have hbytes : 0 < d.n.toNat * d.channels.toNat := Nat.mul_pos (by omega) hchannels
  have hsize := job.outSize
  rw [hout, bufSize] at hsize
  omega

theorem decStep_completes (job : DecJobOk s.cfg s.dec) (hp : s.dec.produced.toNat < s.dec.n.toNat) :
    ∃ t, decStep s = .next t := by
  obtain ⟨base, hin⟩ := Option.ne_none_iff_exists'.1 job.attached
  obtain ⟨i, hfetch⟩ := fetchOpcode_isSome s base
  rcases Nat.lt_or_ge s.dec.cursor.toNat s.dec.bodyEnd.toNat with hend | hend
  · rw [decStep_exec hend hin hfetch]
    exact exec_completes (job.outBuf_ne_none hp) i
  · exact ⟨_, decStep_underfilled hend⟩

theorem decTrailer_completes (hin : s.dec.inBuf ≠ none) : ∃ t, decTrailer s = .next t := by
  obtain ⟨base, hin⟩ := Option.ne_none_iff_exists'.1 hin
  by_cases h : TrailerGood s base
  · exact ⟨_, decTrailer_good hin h⟩
  · exact ⟨_, decTrailer_bad hin h⟩

/-- DEC's step in a running job answers a next state (42_decoder.md R176, 60_exceptions.md R200). -/
theorem decAct_completes (job : DecJobOk s.cfg s.dec) (hb : s.dec.phase = .busy) : ∃ t, decAct s = .next t := by
  by_cases hp : s.dec.produced.toNat < s.dec.n.toNat
  · rw [decAct_opcode hb hp]
    exact decStep_completes job hp
  · rw [decAct_trailer hb hp]
    exact decTrailer_completes job.attached

/-! ## The job's end -/

/-- How many opcodes a decode job can still have: each writes a pixel and reads a byte. -/
def opcodesLeft (d : Dec) : Nat := min (d.n.toNat - d.produced.toNat) (d.bodyEnd.toNat - d.cursor.toNat)

/-- DEC's job has ended. -/
def DecEnded (s : State) : Prop := s.dec.phase = .done ∨ s.dec.phase = .error

theorem OpcodeProgress.opcodesLeft_lt (h : OpcodeProgress s t) : opcodesLeft t.dec < opcodesLeft s.dec := by
  obtain ⟨len, hlen, hcursor⟩ := h.cursor
  have hcursorHigh := h.cursorHigh
  have hproducedLow := h.producedLow
  have hproducedHigh := h.producedHigh
  rw [opcodesLeft, opcodesLeft, h.n, h.bodyEnd]
  omega

theorem decTrailer_ends (ht : decTrailer s = .next t) : DecEnded t := by
  rcases decTrailer_cases ht with rfl | ⟨_, _, _, _, rfl⟩
  · exact .inr rfl
  · exact .inl rfl

/-- DEC's step ends the job or leaves it BUSY with fewer opcodes to come. -/
theorem decAct_ends_or_shrinks (h : Inv s) (hb : s.dec.phase = .busy) (ht : decAct s = .next t) :
    DecEnded t ∨ (t.dec.phase = .busy ∧ opcodesLeft t.dec < opcodesLeft s.dec) := by
  by_cases hp : s.dec.produced.toNat < s.dec.n.toNat
  · rcases decAct_opcode_progress h hb hp ht with herror | progress
    · exact .inl (.inr herror)
    · exact .inr ⟨progress.phase.trans hb, progress.opcodesLeft_lt⟩
  · rw [decAct_trailer hb hp] at ht
    exact .inl (decTrailer_ends ht)

/-- A decode job ends within one step more than the opcodes it can still have. -/
theorem reaches_decEnded (h : Inv s) (hturns : s.turns = []) (hb : s.dec.phase = .busy) :
    ∃ k t, k ≤ opcodesLeft s.dec + 1 ∧ Reaches k s t ∧ DecEnded t := by
  induction hm : opcodesLeft s.dec using Nat.strong_induction_on generalizing s with
  | _ m ih =>
    obtain ⟨t, ht⟩ := decAct_completes (h.dec hb) hb
    have hstep := (step_eq_decAct hturns hb).trans ht
    rcases decAct_ends_or_shrinks h hb ht with hended | ⟨hbusy, hless⟩
    · exact ⟨1, t, by omega, reaches_succ hstep (reaches_zero t), hended⟩
    · have hturns' : t.turns = [] := by rw [decAct_frame ht, hturns]
      obtain ⟨k, u, hk, hreach, hended⟩ := ih _ (hm ▸ hless) (decAct_keeps_inv h ht) hturns' hbusy rfl
      exact ⟨k + 1, u, by omega, reaches_succ hstep hreach, hended⟩

/-- Settles O25: the bound of the statement is `opcodesLeft`. -/
theorem decodeJobEnds : Obligations.DecodeJobEnds := by
  unfold Obligations.DecodeJobEnds
  exact fun _ => reaches_decEnded

end Sys2Proof.Machine
end

section
/-!
An opcode that BODY_END cuts off (60_exceptions.md R203). The one idea: only the first byte selects the opcode, so the fetch
finds the same one behind the cut, with zeros for the operand bytes that are not there, and its own test then fails.
-/

namespace Sys2Proof.Machine

variable {s : State} {base : Nat}

/-! ## What reading too few bytes says of them -/

theorem TakesOperands.short_of_error {n : Nat} {rest : List Byte} {e : DecodeError}
    (h : TakesOperands n rest (.error e)) : rest.length < n := by
  refine Nat.not_le.1 fun hn => ?_
  obtain ⟨_, hread⟩ := h.read hn
  cases hread

theorem decodeRgba_error {rest : List Byte} {e : DecodeError} (h : decodeRgba rest = .error e) :
    e = .truncated "RGBA" ∧ rest.length < 4 := by
  refine ⟨?_, (h ▸ decodeRgba_takes rest).short_of_error⟩
  unfold decodeRgba at h
  split at h
  · cases h
  · cases h
    rfl

theorem decodeRgb_error {rest : List Byte} {e : DecodeError} (h : decodeRgb rest = .error e) :
    e = .truncated "RGB" ∧ rest.length < 3 := by
  refine ⟨?_, (h ▸ decodeRgb_takes rest).short_of_error⟩
  unfold decodeRgb at h
  split at h
  · cases h
  · cases h
    rfl

theorem decodeLuma_error {b : Byte} {rest : List Byte} {e : DecodeError} (h : decodeLuma b rest = .error e) :
    e = .truncated "LUMA" ∧ rest.length < 1 := by
  refine ⟨?_, (h ▸ decodeLuma_takes b rest).short_of_error⟩
  unfold decodeLuma at h
  split at h
  · cases h
  · cases h
    rfl

/-- The opcodes that can be cut off: the first byte, and how few bytes follow it (30_encoding.md R82). -/
theorem decode_truncated_cases {b : Byte} {rest : List Byte} {m : String} (h : decode (b :: rest) = .error (.truncated m)) :
    (m = "RGBA" ∧ b.toNat = 0xFF ∧ rest.length < 4) ∨
    (m = "RGB" ∧ b.toNat = 0xFE ∧ rest.length < 3) ∨
    (m = "LUMA" ∧ (0x80 ≤ b.toNat ∧ b.toNat ≤ 0xBF) ∧ rest.length < 1) := by
  rcases first_byte_ranges b with hb | ⟨hb, hb'⟩ | ⟨hb, hb'⟩ | ⟨hb, hb'⟩ | hb | hb
  · cases (decode_first_00_3F hb rest).symm.trans h
  · cases (decode_first_40_7F hb hb' rest).symm.trans h
  · obtain ⟨hm, hlen⟩ := decodeLuma_error ((decode_first_80_BF hb hb' rest).symm.trans h)
    exact .inr (.inr ⟨by injection hm, ⟨hb, hb'⟩, hlen⟩)
  · cases (decode_first_C0_FD hb hb' rest).symm.trans h
  · obtain ⟨hm, hlen⟩ := decodeRgb_error ((decode_first_FE hb rest).symm.trans h)
    exact .inr (.inl ⟨by injection hm, hb, hlen⟩)
  · obtain ⟨hm, hlen⟩ := decodeRgba_error ((decode_first_FF hb rest).symm.trans h)
    exact .inl ⟨by injection hm, hb, hlen⟩

/-! ## The fetch and the step -/

/-- The first byte fetched is the one at the cursor. -/
theorem fetchWindow_eq_cons (base : Nat) (hend : s.dec.cursor.toNat < s.dec.bodyEnd.toNat) :
    ∃ x1 x2 x3 x4, fetchWindow s base = [readByte s.mem (base + s.dec.cursor.toNat), x1, x2, x3, x4] := by
  have hfirst : streamByte s base 0 = readByte s.mem (base + s.dec.cursor.toNat) := if_pos hend
  rw [fetchWindow, hfirst]
  exact ⟨_, _, _, _, rfl⟩

/-- DEC's step runs the opcode that stands in front of the bytes it fetches. -/
theorem decStep_exec_of_window {bs rest : List Byte} {i : Instr} (hend : s.dec.cursor.toNat < s.dec.bodyEnd.toNat)
    (hin : s.dec.inBuf = some base) (hwindow : fetchWindow s base = bs) (hdecode : decode bs = .ok (i, rest)) :
    decStep s = exec i s :=
  decStep_exec hend hin (by rw [fetchOpcode, hwindow, hdecode])

/-- The step of a cut-off opcode: the error is the one of the opcode that the first byte selects. -/
theorem decStep_truncated {m : String} (hin : s.dec.inBuf = some base) (hend : s.dec.cursor.toNat < s.dec.bodyEnd.toNat)
    (h : decode (readBytes s.mem (base + s.dec.cursor.toNat) (s.dec.bodyEnd.toNat - s.dec.cursor.toNat)) =
      .error (.truncated m)) :
    ∃ e, decStep s = .next (raiseErr s e s.dec.cursor) ∧
      ((m = "RGBA" ∧ e = .truncatedRgba) ∨ (m = "RGB" ∧ e = .truncatedRgb) ∨ (m = "LUMA" ∧ e = .truncatedLuma)) := by
  obtain ⟨k, hk⟩ := Nat.exists_eq_add_one.2 (Nat.sub_pos_of_lt hend)
  rw [hk, readBytes] at h
  obtain ⟨x1, x2, x3, x4, hwindow⟩ := fetchWindow_eq_cons base hend
  rcases decode_truncated_cases h with ⟨hm, hb, hlen⟩ | ⟨hm, hb, hlen⟩ | ⟨hm, ⟨hb, hb'⟩, hlen⟩ <;>
    rw [readBytes_length] at hlen
  · refine ⟨.truncatedRgba, ?_, .inl ⟨hm, rfl⟩⟩
    rw [decStep_exec_of_window hend hin hwindow (decode_first_FF hb _)]
    exact exec_rgba_of_not_fits (not_opcodeFits (by omega)) _ _ _ _
  · refine ⟨.truncatedRgb, ?_, .inr (.inl ⟨hm, rfl⟩)⟩
    rw [decStep_exec_of_window hend hin hwindow (decode_first_FE hb _)]
    exact exec_rgb_of_not_fits (not_opcodeFits (by omega)) _ _ _
  · refine ⟨.truncatedLuma, ?_, .inr (.inr ⟨hm, rfl⟩)⟩
    rw [decStep_exec_of_window hend hin hwindow (decode_first_80_BF hb hb' _)]
    exact exec_luma_of_not_fits (not_opcodeFits (by omega)) _ _ _

/-- Settles O19: the step of the cut-off opcode raises its error, which leaves what every error leaves. -/
theorem truncatedFetchRaises : Obligations.TruncatedFetchRaises := by
  unfold Obligations.TruncatedFetchRaises
  intro s base m hb hp hin hend h
  obtain ⟨e, hstep, hname⟩ := decStep_truncated hin hend h
  obtain ⟨t, ht, hraised⟩ := raises_of_eq hstep
  exact ⟨t, e, (decAct_opcode hb hp).trans ht, hraised, hname⟩

end Sys2Proof.Machine
end

section
/-!
Neither engine's step stops the machine (42_decoder.md R176, 60_exceptions.md R200, R211). A running job has the buffers that
its step needs, because the job's bounds put bytes into them; DEC's half is `decAct_completes`.
-/

namespace Sys2Proof.Machine

variable {s : State}

theorem encAct_of_not_busy (h : s.enc.phase ≠ .busy) : encAct s = .next s := by
  simp [encAct, encBusy, h]

theorem decAct_of_not_busy (h : s.dec.phase ≠ .busy) : decAct s = .next s := by
  simp [decAct, decBusy, h]

/-- A buffer that holds a byte is set. -/
theorem ne_none_of_bufSize_pos {b : Option Buffer} (h : 0 < bufSize b) : b ≠ none := by
  rintro rfl
  exact lt_irrefl 0 h

/-- A running encode job has an output buffer, for header and end marker at least (20_memory.md R63). -/
theorem EncJobOk.outBuf_ne_none {cfg : Config} {e : Enc} (job : EncJobOk cfg e) : e.outBuf ≠ none := by
  have hsize := job.outSize
  exact ne_none_of_bufSize_pos (by omega)

/-- An encode job with a pixel left has an input buffer (20_memory.md R50). -/
theorem EncJobOk.inBuf_ne_none {cfg : Config} {e : Enc} (job : EncJobOk cfg e) (hp : e.pos.toNat < e.n.toNat) :
    e.inBuf ≠ none := by
  have hchannels : 0 < e.channels.toNat := by
    rcases job.channels with hc | hc <;> simp [hc]
  refine ne_none_of_bufSize_pos ?_
  rw [job.inSize]
  exact Nat.mul_pos (by omega) hchannels

/-- ENC's step in a running job answers a next state (60_exceptions.md R211). -/
theorem encAct_completes (job : EncJobOk s.cfg s.enc) (hb : s.enc.phase = .busy) : ∃ t, encAct s = .next t := by
  rcases Nat.lt_or_ge s.enc.pos.toNat s.enc.n.toNat with hp | hp
  · exact ⟨_, encAct_applyPlan hb (job.inBuf_ne_none hp) job.outBuf_ne_none hp⟩
  · exact ⟨_, encAct_of_done job hb hp job.outBuf_ne_none⟩

/-- Settles O60: an engine that is not BUSY takes no step, and a BUSY one is in a job within its bounds. -/
theorem engineStepsAlwaysComplete : Obligations.EngineStepsAlwaysComplete := by
  unfold Obligations.EngineStepsAlwaysComplete
  refine fun s h => ⟨?_, ?_⟩
  · by_cases hb : s.enc.phase = .busy
    · exact encAct_completes (h.enc hb) hb
    · exact ⟨s, encAct_of_not_busy hb⟩
  · by_cases hb : s.dec.phase = .busy
    · exact decAct_completes (h.dec hb) hb
    · exact ⟨s, decAct_of_not_busy hb⟩

end Sys2Proof.Machine
end

section
/-!
What the host sees of an error (10_state.md R38, 60_exceptions.md R201), and what it may not do to a BUSY engine
(60_exceptions.md R216).
-/

namespace Sys2Proof.Machine

variable {s : State}

/-! ## The error codes -/

/-- In the ERROR phase DEC_STATUS is ERR, ERR_KIND and ERR_CAUSE side by side (10_state.md R38). -/
theorem decStatus_toNat_of_err {e : DecErr} (hphase : s.dec.phase = .error) (herr : s.dec.err = some e) :
    (decStatus s).toNat = 4 + (errKind e * 2 ^ 4 + errCause e * 2 ^ 8) := by
  rw [decStatus, hphase, herr]
  cases e <;> rfl

/-- Settles O22: the offset stands as it was named, and the code is computed error by error. -/
theorem errorCodesReported : Obligations.ErrorCodesReported := by
  unfold Obligations.ErrorCodesReported
  intro s t e off h
  have hphase : t.dec.phase = .error := by rw [h.regs]
  have herr : t.dec.err = some e := by rw [h.regs]
  refine ⟨by rw [h.regs], ?_⟩
  rw [decStatus_toNat_of_err hphase herr]
  cases e <;> rfl

/-! ## Writes to a BUSY engine -/

theorem writeReg_busy {r : Reg} {eng : Engine} (hb : engineBusy s eng = true) (hr : regEngine r = eng) (v : Word64) :
    writeReg s r v = .refused (.writeWhileBusy eng) := by
  rw [writeReg, hr, if_pos hb]

theorem setBuffer_busy {b : BufName} {eng : Engine} (hb : engineBusy s eng = true) (hr : bufEngine b = eng) (buf : Buffer) :
    setBuffer s b buf = .refused (.writeWhileBusy eng) := by
  rw [setBuffer, hr, if_pos hb]

/-- Settles O46: the refusal asks for nothing but the engine that owns the register or handle. -/
theorem busyEngineRefusesWrites : Obligations.BusyEngineRefusesWrites := by
  unfold Obligations.BusyEngineRefusesWrites
  refine fun s v buf => ⟨fun h => ?_, fun h => ?_⟩
  · have busy := engineBusy_enc.2 h
    exact ⟨fun _ hr => writeReg_busy busy hr v, fun _ hr => setBuffer_busy busy hr buf⟩
  · have busy := engineBusy_dec.2 h
    exact ⟨fun _ hr => writeReg_busy busy hr v, fun _ hr => setBuffer_busy busy hr buf⟩

end Sys2Proof.Machine
end

section
/-!
An encode job from any of its points to DONE (70_reset_and_hazards.md R242). The one idea: a pixel step keeps the invariant,
the turn and the phase and brings POS one nearer to N, so the pixels left are counted down to the finish step.
-/

namespace Sys2Proof.Machine

variable {s : State}

/-- With no pixel left ENC takes its finish step and is DONE (41_encoder.md R136). -/
theorem step_encFinished (h : Inv s) (hturns : s.turns = []) (henc : s.enc.phase = .busy) (hdec : s.dec.phase ≠ .busy)
    (hp : s.enc.n.toNat ≤ s.enc.pos.toNat) : step s = .next (encFinished s) :=
  (step_eq_encAct hturns hdec henc).trans (encAct_of_done (h.enc henc) henc hp (h.enc henc).outBuf_ne_none)

/-- With a pixel left ENC takes a pixel step (R122). -/
theorem step_encStepped (h : Inv s) (hturns : s.turns = []) (henc : s.enc.phase = .busy) (hdec : s.dec.phase ≠ .busy)
    (hp : s.enc.pos.toNat < s.enc.n.toNat) : step s = .next (encStepped s) :=
  (step_eq_encAct hturns hdec henc).trans
    (encAct_applyPlan henc ((h.enc henc).inBuf_ne_none hp) (h.enc henc).outBuf_ne_none hp)

/-- With `k` pixels left an encode job is DONE after `k + 1` steps. -/
theorem reaches_encDone {k : Nat} (h : Inv s) (hturns : s.turns = []) (henc : s.enc.phase = .busy)
    (hdec : s.dec.phase ≠ .busy) (hk : s.enc.pos.toNat + k = s.enc.n.toNat) :
    ∃ t, Reaches (k + 1) s t ∧ t.enc.phase = .done := by
  induction k generalizing s with
  | zero =>
    have hstep := step_encFinished h hturns henc hdec (by omega)
    exact ⟨encFinished s, reaches_succ hstep (reaches_zero _), rfl⟩
  | succ k ih =>
    have hp : s.enc.pos.toNat < s.enc.n.toNat := by omega
    have hstep := step_encStepped h hturns henc hdec hp
    have hpos : (encStepped s).enc.pos.toNat = s.enc.pos.toNat + 1 := applyPlan_pos_toNat h.wide hp _ _
    have hleft : (encStepped s).enc.pos.toNat + k = s.enc.n.toNat := by omega
    obtain ⟨t, hreach, hdone⟩ := ih (step_keeps_inv h hstep) hturns henc hdec hleft
    exact ⟨t, reaches_succ hstep hreach, hdone⟩

/-- Settles O43: N - POS pixels are left, because the invariant bounds POS by N. -/
theorem encodeJobTakesOneStepPerPixel : Obligations.EncodeJobTakesOneStepPerPixel := by
  unfold Obligations.EncodeJobTakesOneStepPerPixel
  exact fun s h hturns henc hdec => reaches_encDone h hturns henc hdec (Nat.add_sub_cancel' (h.enc henc).pos)

end Sys2Proof.Machine
end

section
/-!
What power-on or an earlier job left in DEC's datapath does not reach a new job (70_reset_and_hazards.md R230, 10_state.md
R41): the checks of START do not look at it, and the job-start values overwrite it.
-/

namespace Sys2Proof.Machine

variable {s : State}

/-- A write of START to a DEC that is not BUSY is its job start (10_state.md R37). -/
theorem writeReg_decCtrl_set (hidle : engineBusy s .dec = false) {v : Word64} (hv : v.getLsbD 0 = true) :
    writeReg s .decCtrl v = decStart s :=
  (writeReg_eq v hidle).trans (storeReg_decCtrl_set s hv)

/-- START begins a job where the header is long enough, has the magic, and passes the checks of its fields (42_decoder.md
R160): the converse of the last case of `decStart_cases`. -/
theorem decStart_launches {base : Nat} {hdr : Header} (hapart : s.enc.phase = .busy → enginesOverlap s = false)
    (hin : s.dec.inBuf = some base) (hhdr : hdr = readHeader s.mem base)
    (hlen : 14 ≤ (counter s.cfg s.dec.inLen.toNat).toNat) (hmagic : readBytes s.mem base 4 = magic)
    (hc : hdr.channels = 3 ∨ hdr.channels = 4) (hmax : hdr.width.toNat * hdr.height.toNat ≤ s.cfg.maxPixels)
    (hout : hdr.width.toNat * hdr.height.toNat * hdr.channels.toNat ≤ bufSize s.dec.outBuf) :
    decStart s = .next (decLaunch (setHeaderRegs (decClear s) hdr)) := by
  have hrefuse : ¬ (encBusy s && enginesOverlap s) = true := by simpa [encBusy] using hapart
  have hlong : ¬ (decClear s).dec.l.toNat < 14 := hlen.not_gt
  rw [decStart, if_neg hrefuse, decHeader, if_neg hlong, decClear_dec_inBuf, hin]
  subst hhdr
  exact (if_neg (not_not.2 hmagic)).trans (decAccept_launch hc hmax hout)

/-- Settles O27: a START that leaves DEC BUSY has launched a job, and launches the same one whatever the datapath holds. -/
theorem decStartForgetsOldJob : Obligations.DecStartForgetsOldJob := by
  unfold Obligations.DecStartForgetsOldJob
  intro s t v cache prev cursor produced n l bodyEnd hv ht hbusy
  obtain ⟨hidle, hstore⟩ := writeReg_cases ht
  rw [storeReg_decCtrl_set s hv] at hstore
  obtain ⟨hapart, ⟨e, off, u, _, rfl⟩ | ⟨base, hdr, hin, hhdr, hlen, hmagic, hc, hmax, hout, rfl⟩⟩ := decStart_cases hstore
  · cases hbusy
  · refine (writeReg_decCtrl_set ?_ hv).trans ?_
    · exact hidle
    · exact decStart_launches hapart hin hhdr hlen hmagic hc hmax hout

end Sys2Proof.Machine
end

section
/-!
The host's byte accesses outside the buffers of BUSY engines (70_reset_and_hazards.md R233, 20_memory.md R60): the converses of
`hostWrite_cases` and `hostRead_cases`.
-/

namespace Sys2Proof.Machine

variable {s : State} {a : Nat}

/-- A host write that no BUSY engine's buffer covers is carried out. -/
theorem hostWrite_next (v : Byte)
    (henc : s.enc.phase = .busy → covers s.enc.inBuf a = false ∧ covers s.enc.outBuf a = false)
    (hdec : s.dec.phase = .busy → covers (decInBuffer s.dec) a = false ∧ covers s.dec.outBuf a = false) :
    hostWrite s a v = .next { s with mem := writeByte s.mem a v } := by
  have he : ¬ (encBusy s && (covers s.enc.inBuf a || covers s.enc.outBuf a)) = true := by simpa [encBusy] using henc
  have hd : ¬ (decBusy s && (covers (decInBuffer s.dec) a || covers s.dec.outBuf a)) = true := by
    simpa [decBusy] using hdec
  rw [hostWrite, if_neg he, if_neg hd]

/-- A host read that no BUSY engine's output buffer covers is carried out. -/
theorem hostRead_next (henc : s.enc.phase = .busy → covers s.enc.outBuf a = false)
    (hdec : s.dec.phase = .busy → covers s.dec.outBuf a = false) :
    hostRead s a = .next { s with hostData := (readByte s.mem a).setWidth 64 } := by
  have he : ¬ (encBusy s && covers s.enc.outBuf a) = true := by simpa [encBusy] using henc
  have hd : ¬ (decBusy s && covers s.dec.outBuf a) = true := by simpa [decBusy] using hdec
  rw [hostRead, if_neg he, if_neg hd]

/-- Settles O50: the byte accesses; the reads of a register and of a handle are theirs by definition. -/
theorem hostMovesBytes : Obligations.HostMovesBytes := by
  unfold Obligations.HostMovesBytes
  intro s a v
  refine ⟨fun henc hdec => ?_, hostRead_next, fun _ => rfl, fun _ => rfl⟩
  exact ⟨_, hostWrite_next v henc hdec, rfl, readByte_writeByte_self s.mem a v,
    fun _ hb => readByte_writeByte_ne s.mem v hb⟩

/-- Settles O54, engine by engine. -/
theorem engineNotBusyTakesNoStep : Obligations.EngineNotBusyTakesNoStep := by
  unfold Obligations.EngineNotBusyTakesNoStep
  exact fun _ => ⟨encAct_of_not_busy, decAct_of_not_busy⟩

end Sys2Proof.Machine
end

section
/-!
The written-out words of the test vectors (30_encoding.md R87): each is the encoding of its opcode, so reading it back gives that
opcode.
-/

namespace Sys2Proof.Machine

/-- A word that R87's formula gives for a well-formed opcode is read as that opcode, with nothing left. -/
theorem decode_of_encode_eq {i : Instr} {bs : List Byte} (h : i.wf = true) (hbs : encode i = bs) :
    decode bs = .ok (i, []) := by
  rw [← hbs, ← List.append_nil (encode i)]
  exact decodeInvertsEncode i [] h

/-- Settles O5: each word is the encoding of the opcode that the statement names. -/
theorem writtenWordsDecode : Obligations.WrittenWordsDecode := by
  unfold Obligations.WrittenWordsDecode
  refine ⟨?rgba, ?rgb, ?index, ?diff, ?luma, ?run⟩
  case rgba => exact decode_rgba 10 20 30 128 []
  case rgb => exact decode_rgb 10 20 30 []
  case index => exact decode_of_encode_eq rfl (by decide)
  case diff => exact decode_of_encode_eq (by decide) (by decide)
  case luma => exact decode_of_encode_eq (by decide) (by decide)
  case run => exact decode_of_encode_eq (by decide) (by decide)

end Sys2Proof.Machine
end

section
/-!
Where a step stops whose handle holds no buffer (10_state.md R34, R37; log entry 9). A buffer is asked for only after the checks
that do not read or write it, so each lemma takes the checks that come before as its hypotheses; an opcode that fails its own
check raises the error of that check and needs no buffer.
-/

namespace Sys2Proof.Machine

variable {s : State}

/-! ## DEC_IN -/

theorem decHeader_unset (hlen : 14 ≤ s.dec.l.toNat) (hin : s.dec.inBuf = none) :
    decHeader s = .fault (.noBuffer .decIn) := by
  rw [decHeader, if_neg hlen.not_gt, hin]

theorem decStep_unset (hend : s.dec.cursor.toNat < s.dec.bodyEnd.toNat) (hin : s.dec.inBuf = none) :
    decStep s = .fault (.noBuffer .decIn) := by
  rw [decStep, if_neg hend.not_ge, hin]

/-- A stream that ends eight bytes after the cursor has an acceptable trailer length under either policy (R172). -/
theorem trailerLengthOk_of_exact (hlen : s.dec.l.toNat = s.dec.cursor.toNat + 8) : trailerLengthOk s = true := by
  unfold trailerLengthOk
  split
  · exact decide_eq_true hlen.ge
  · exact decide_eq_true hlen.symm

theorem decTrailer_unset (hlen : trailerLengthOk s = true) (hin : s.dec.inBuf = none) :
    decTrailer s = .fault (.noBuffer .decIn) := by
  simp [decTrailer, hlen, hin]

/-! ## DEC_OUT -/

theorem retire_unset (hout : s.dec.outBuf = none) (px : Pixel) (len : Nat) :
    retire s px len = .fault (.noBuffer .decOut) := by
  rw [retire, hout]

theorem retireRun_unset (hout : s.dec.outBuf = none) (k : Nat) : retireRun s k = .fault (.noBuffer .decOut) := by
  rw [retireRun, hout]

theorem execDeltas_unset (hout : s.dec.outBuf = none) (dr dg db : Int) (len : Nat) :
    execDeltas dr dg db len s = .fault (.noBuffer .decOut) ∨
      ∃ e, execDeltas dr dg db len s = .next (raiseErr s e s.dec.cursor) := by
  unfold execDeltas
  split
  · exact .inl (retire_unset hout _ len)
  · exact .inr ⟨_, rfl⟩

/-- With DEC_OUT unset an opcode fails its own check or stops where it would write its pixel. -/
theorem exec_unset (hout : s.dec.outBuf = none) (i : Instr) :
    exec i s = .fault (.noBuffer .decOut) ∨ ∃ e, exec i s = .next (raiseErr s e s.dec.cursor) := by
  cases i with
  | rgba r g b a =>
    by_cases hfit : opcodeFits s 5 = true
    · exact .inl ((exec_rgba_of_fits hfit r g b a).trans (retire_unset hout _ 5))
    · exact .inr ⟨_, exec_rgba_of_not_fits hfit r g b a⟩
  | rgb r g b =>
    by_cases hfit : opcodeFits s 4 = true
    · exact .inl ((exec_rgb_of_fits hfit r g b).trans (retire_unset hout _ 4))
    · exact .inr ⟨_, exec_rgb_of_not_fits hfit r g b⟩
  | index k => exact .inl (retire_unset hout _ 1)
  | diff dr dg db => exact execDeltas_unset hout dr dg db 1
  | luma dg drDg dbDg =>
    by_cases hfit : opcodeFits s 2 = true
    · rw [exec_luma_of_fits hfit]
      exact execDeltas_unset hout _ _ _ 2
    · exact .inr ⟨_, exec_luma_of_not_fits hfit dg drDg dbDg⟩
  | run n =>
    by_cases hover : n > missing s.dec ∧ s.cfg.runOvershoot = .error
    · exact .inr ⟨_, exec_run_overshoot hover.2 hover.1⟩
    · exact .inl ((if_neg hover).trans (retireRun_unset hout _))

/-! ## ENC_IN and ENC_OUT -/

theorem encStep_inUnset (hin : s.enc.inBuf = none) : encStep s = .fault (.noBuffer .encIn) := if_pos hin

/-- Both steps of a busy ENC write ENC_OUT, a pixel step after it has asked for ENC_IN. -/
theorem encAct_outUnset (hb : s.enc.phase = .busy) (hin : s.enc.inBuf ≠ none) (hout : s.enc.outBuf = none) :
    encAct s = .fault (.noBuffer .encOut) := by
  by_cases hp : s.enc.pos.toNat < s.enc.n.toNat
  · rw [encAct_pixel hb hp, encStep, if_neg hin, if_pos hout]
  · rw [encAct_finish hb hp, encFinish, if_pos hout]

/-- Settles O52, handle by handle. -/
theorem unsetHandlesFault : Obligations.UnsetHandlesFault := by
  unfold Obligations.UnsetHandlesFault
  intro s v
  refine ⟨?start, ?opcode, ?trailer, ?decOut, ?encIn, encAct_outUnset⟩
  case start =>
    intro hv may hin hlen
    rw [writeReg_decCtrl_start may hv]
    exact decHeader_unset (s := { s with dec := decStarted s.dec }) hlen hin
  case opcode => exact fun hb hin hp hend => (decAct_opcode hb hp).trans (decStep_unset hend hin)
  case trailer =>
    intro hb hin hp hlen
    have hall : ¬ s.dec.produced.toNat < s.dec.n.toNat := by rw [hp]; exact lt_irrefl _
    exact (decAct_trailer hb hall).trans (decTrailer_unset (trailerLengthOk_of_exact hlen) hin)
  case decOut =>
    intro hout i
    rcases exec_unset hout i with hfault | ⟨e, herror⟩
    · exact .inl hfault
    · exact .inr ⟨_, e, herror, errorRaised_raiseErr s e s.dec.cursor⟩
  case encIn => exact fun hb hp hin => (encAct_pixel hb hp).trans (encStep_inUnset hin)

end Sys2Proof.Machine
end
